-- ==== Sys2Proof/Word.lean ====
section
/-! DEFINITION. The word types of the engine (30_encoding R97: register words 32 bits; addresses,
page indexes, PTEs and masks 64 bits). -/

namespace Sys2Proof

/-- One byte of physical memory. -/
abbrev Byte := BitVec 8

/-- A register word, and a word of an event packet. -/
abbrev Word := BitVec 32

/-- An IOVA, a physical address, a page index, a PTE or a target set. -/
abbrev Quad := BitVec 64

/-- A stream id (`SID_BITS` = 4, 00_scope R9), logical or physical. -/
abbrev Sid := BitVec 4

/-- A permission: bit 0 readable, bit 1 writable (30_encoding R85). -/
abbrev Perm := BitVec 2

/-- The answer of a successful `read_physical(a, 8)`: byte 0 is the byte at `a` (20_memory R50). -/
abbrev Bytes8 := Vector Byte 8

/-- The low half of a 64-bit value, as a register word. -/
def loWord (v : Quad) : Word := v.extractLsb' 0 32

/-- The high half of a 64-bit value, as a register word. -/
def hiWord (v : Quad) : Word := v.extractLsb' 32 32

/-- A 64-bit value from its two register words. -/
def quadOf (lo hi : Word) : Quad := hi ++ lo

end Sys2Proof
end

