-- ==== Sys2Proof/Config.lean ====
section
/-! DEFINITION. What is fixed at construction: the parameters of one DartController
(00_scope R8, R9) and the free value. State carries a `Params` that no step changes, so a claim over
all states is a claim over all parameters. -/

namespace Sys2Proof

/-- `PAGE_SHIFT` is 12 or 14; any other page size is fatal at construction and no state exists for it
(00_scope R8, 60_exceptions R194). -/
inductive PageSize where
  | k4
  | k16
deriving DecidableEq, Repr

/-- The construction parameters (00_scope R8) and the open fields of the layout record (R9):
`WINDOW_SIZE`, and the offsets of the target-set registers, whose number is `N_SETS`. -/
structure Params where
  pageSize   : PageSize
  /-- `SID_PRESENT`: bit `s` set means requesting SID `s` has a translate port. -/
  sidPresent : BitVec 16
  /-- `BYPASS_MASK`: bit `p` set forces bypass for physical SID `p`. -/
  bypassMask : BitVec 16
  /-- `WINDOW_SIZE`: bytes of an instance's register window. -/
  windowSize : Nat
  /-- The offsets of `TARGET_SET_LO[k]` and `TARGET_SET_HI[k]`, for each `k` below `N_SETS`. -/
  setOffsets : List (BitVec 16 × BitVec 16)
deriving DecidableEq, Repr

/-- `N_SETS`, the number of target-set registers (00_scope R9, D4). -/
def Params.nSets (P : Params) : Nat := P.setOffsets.length

/-- The offsets of every target-set word. -/
def Params.setWords (P : Params) : List (BitVec 16) :=
  P.setOffsets.flatMap fun o => [o.1, o.2]

/-- The registers of 30_encoding R74 whose offsets do not depend on `N_SETS`. -/
def fixedOffset (o : BitVec 16) : Bool :=
  o == 0x000 || o == 0x020 || o == 0x040 || o == 0x050 || o == 0x054 || o == 0x060
    || (0x080 ≤ o.toNat && o.toNat < 0x090)
    || (0x100 ≤ o.toNat && o.toNat < 0x140)
    || (0x200 ≤ o.toNat && o.toNat < 0x300)

/-- Well-formed parameters: the window bound of 00_scope R9 (D30), at least one target set (D4), few
enough that `SET_SEL` ends below `OPCODE` (30_encoding R79, log 24), and target-set offsets that are
4-aligned, inside the window, non-overlapping and apart from every other register (R74). -/
abbrev Params.wf (P : Params) : Prop :=
  0x300 ≤ P.windowSize ∧ P.windowSize ≤ 0x10000 ∧ 1 ≤ P.nSets ∧ P.nSets ≤ 12 ∧
  P.setWords.Nodup ∧
  ∀ o ∈ P.setWords, o.extractLsb' 0 2 = 0 ∧ o.toNat < P.windowSize ∧ fixedOffset o = false

/-- The parameters the spec's test vectors use: 4 KiB pages, every SID present, no controller bypass,
one target set at its default offsets (30_encoding R74). DESIGN CHOICE (log 1), window size included. -/
def Params.default : Params where
  pageSize   := .k4
  sidPresent := 0xFFFF
  bypassMask := 0x0000
  windowSize := 0x10000
  setOffsets := [(0x034, 0x038)]

/-- What the `n`-th read of an unlisted offset returns: unspecified (42_stream_config R131), a free
value (log 7). -/
opaque Config.unlistedValue : Nat → Word

end Sys2Proof
end

