-- ==== Sys2Proof/Syntax.lean ====
section
/-! DEFINITION. The operations of the engine, which stand for its instruction set (00_scope R10): one
constructor per row of spec/opcode_table.json, with the operands its rule names. `n` is the number of
the addressed instance of the controller. -/

namespace Sys2Proof

/-- The operations, in the table's order. -/
inductive Instr where
  -- register bus (class 0)
  | rdParams (n : Nat)
  | wrParams (n : Nat) (val : Word)
  | rdTlbOp (n : Nat)
  | wrTlbOp (n : Nat) (val : Word)
  | rdTargetSetLo (n k : Nat)
  | wrTargetSetLo (n k : Nat) (val : Word)
  | rdTargetSetHi (n k : Nat)
  | wrTargetSetHi (n k : Nat) (val : Word)
  | rdErrorStatus (n : Nat)
  | wrErrorStatus (n : Nat) (val : Word)
  | rdErrorAddrLo (n : Nat)
  | wrErrorAddrLo (n : Nat) (val : Word)
  | rdErrorAddrHi (n : Nat)
  | wrErrorAddrHi (n : Nat) (val : Word)
  | rdConfig (n : Nat)
  | wrConfig (n : Nat) (val : Word)
  | rdSidRemap (n : Nat) (w : BitVec 2)
  | wrSidRemap (n : Nat) (w : BitVec 2) (val : Word)
  | rdTcr (n : Nat) (p : Sid)
  | wrTcr (n : Nat) (p : Sid) (val : Word)
  | rdTtbr (n : Nat) (p : Sid) (i : BitVec 2)
  | wrTtbr (n : Nat) (p : Sid) (i : BitVec 2) (val : Word)
  | rdUnlisted (n : Nat) (offset : BitVec 16)
  | wrUnlisted (n : Nat) (offset : BitVec 16) (val : Word)
  -- request port (class 1)
  | xlate (n : Nat) (sid : Sid) (wantR wantW : Bool) (iova : Quad)
  -- event loop and host (classes 2 and 3)
  | invRun (n : Nat)
  | reset (n : Nat)
  -- internal (class 7)
  | resolve (n : Nat) (sid : Sid)
  | walk (t0 t1 t2 t3 : Word) (page : Quad)
  | tlbLookup (n : Nat) (psid : Sid) (page : Quad)
  | tlbInsert (n : Nat) (psid : Sid) (page blockAddr : Quad) (perm : Perm)
  | tlbInvalidate (n : Nat) (sidMask : Quad)
  | tlbClearAll (n : Nat)
  | faultLatch (n : Nat) (bits : Word) (addr : Quad) (psid : Sid)
  | irqEval
deriving DecidableEq, Repr

/-- Why an event packet spells no operation (30_encoding R91; log 3 for the operand words). -/
inductive DecodeError where
  /-- The packet has no words. -/
  | empty
  /-- A descriptor bit above bit 19 is set. -/
  | descriptorTooWide
  /-- Descriptor class 4, 5 or 6 (R70, R91 a). -/
  | reservedClass
  /-- Internal sub-code 8 to 15 (R73, R91 a). -/
  | reservedSubcode
  /-- A descriptor bit that must be 0 is 1 (R72, R73, R91 a). -/
  | mustBeZero
  /-- A bus event whose offset is not a multiple of 4 (R71, R91 b). -/
  | misaligned
  /-- A bus event at or above `WINDOW_SIZE` (R71, R91 b). -/
  | outsideWindow
  /-- The packet has more or fewer operand words than the operation. -/
  | operandCount
  /-- An operand word has a bit above its operand's width set. -/
  | operandTooWide
deriving DecidableEq, Repr

/-- The internal operations, which are "never received from outside" (30_encoding R73). -/
def Instr.isInternal : Instr → Bool
  | .resolve .. | .walk .. | .tlbLookup .. | .tlbInsert .. | .tlbInvalidate .. | .tlbClearAll ..
  | .faultLatch .. | .irqEval => true
  | .rdParams .. | .wrParams .. | .rdTlbOp .. | .wrTlbOp .. | .rdTargetSetLo .. | .wrTargetSetLo ..
  | .rdTargetSetHi .. | .wrTargetSetHi .. | .rdErrorStatus .. | .wrErrorStatus ..
  | .rdErrorAddrLo .. | .wrErrorAddrLo .. | .rdErrorAddrHi .. | .wrErrorAddrHi ..
  | .rdConfig .. | .wrConfig .. | .rdSidRemap .. | .wrSidRemap .. | .rdTcr .. | .wrTcr ..
  | .rdTtbr .. | .wrTtbr .. | .rdUnlisted .. | .wrUnlisted ..
  | .xlate .. | .invRun .. | .reset .. => false

end Sys2Proof
end

