-- ==== Sys2Proof/WellFormed.lean ====
section
/-! DEFINITION. Which operations an event packet can spell, under given construction parameters: the
instance number fits its operand word (log 3), a target set exists, and an unlisted offset is 4-aligned,
inside the window and in no row of the register map (30_encoding R71, R74). -/

namespace Sys2Proof

/-- An offset that the register map of 30_encoding R74 does not list. -/
def Params.unlisted (P : Params) (o : BitVec 16) : Bool :=
  o.extractLsb' 0 2 == 0 && decide (o.toNat < P.windowSize) && !fixedOffset o &&
    !P.setWords.contains o

/-- The instance number fits a packet word. -/
def instFits (n : Nat) : Bool := decide (n < 2 ^ 32)

/-- The operation is one that a packet spells. -/
def Instr.wellFormed (P : Params) : Instr → Bool
  | .rdParams n | .rdTlbOp n | .rdErrorStatus n | .rdErrorAddrLo n | .rdErrorAddrHi n | .rdConfig n
  | .rdSidRemap n _ | .rdTcr n _ | .rdTtbr n _ _
  | .wrParams n _ | .wrTlbOp n _ | .wrErrorStatus n _ | .wrErrorAddrLo n _ | .wrErrorAddrHi n _
  | .wrConfig n _ | .wrSidRemap n _ _ | .wrTcr n _ _ | .wrTtbr n _ _ _ => instFits n
  | .rdTargetSetLo n k | .rdTargetSetHi n k
  | .wrTargetSetLo n k _ | .wrTargetSetHi n k _ => instFits n && decide (k < P.nSets)
  | .rdUnlisted n o | .wrUnlisted n o _ => instFits n && P.unlisted o
  | .xlate n _ _ _ _ | .invRun n | .reset n => instFits n
  | .resolve n _ | .tlbLookup n _ _ | .tlbInsert n _ _ _ _ | .tlbInvalidate n _ | .tlbClearAll n
  | .faultLatch n _ _ _ => instFits n
  | .walk _ _ _ _ _ | .irqEval => true

end Sys2Proof
end

