-- ==== Sys2Proof/Decode.lean ====
section
/-! DEFINITION. The decoder from an event packet to an operation, total and refusing by name, and after it
the encoder, both written from 30_encoding R70 to R74. A packet is a list of 32-bit words: the 20-bit
descriptor `D` (R70) in bits 19..0 of the first word, then the operands in the order the operation's
rule names them, one word each, 64-bit operands as two words, low half first (log 3). -/

namespace Sys2Proof

/-- A register of the map (30_encoding R74), or an unlisted offset. -/
inductive Reg where
  | params | tlbOp | errorStatus | errorAddrLo | errorAddrHi | config
  | targetSetLo (k : Nat)
  | targetSetHi (k : Nat)
  | sidRemap (w : BitVec 2)
  | tcr (p : Sid)
  | ttbr (p : Sid) (i : BitVec 2)
  | unlisted (offset : BitVec 16)
deriving DecidableEq, Repr

/-- The target-set word at an offset, the sets numbered from `k` on (30_encoding R74, D4). -/
def setRegAt (o : BitVec 16) (k : Nat) : List (BitVec 16 × BitVec 16) → Option Reg
  | [] => none
  | (lo, hi) :: rest =>
    if o = lo then some (.targetSetLo k)
    else if o = hi then some (.targetSetHi k)
    else setRegAt o (k + 1) rest

/-- The register at an offset (30_encoding R71, R74, R91 b). The arrays are matched by the masks of
opcode_table.json. -/
def decodeReg (P : Params) (o : BitVec 16) : Except DecodeError Reg :=
  if o.extractLsb' 0 2 ≠ 0 then .error .misaligned
  else if P.windowSize ≤ o.toNat then .error .outsideWindow
  else if o = 0x000 then .ok .params
  else if o = 0x020 then .ok .tlbOp
  else if o = 0x040 then .ok .errorStatus
  else if o = 0x050 then .ok .errorAddrLo
  else if o = 0x054 then .ok .errorAddrHi
  else if o = 0x060 then .ok .config
  else if o &&& 0xFFF3 = 0x080 then .ok (.sidRemap (o.extractLsb' 2 2))
  else if o &&& 0xFFC3 = 0x100 then .ok (.tcr (o.extractLsb' 2 4))
  else if o &&& 0xFF03 = 0x200 then .ok (.ttbr (o.extractLsb' 4 4) (o.extractLsb' 2 2))
  else match setRegAt o 0 P.setOffsets with
    | some r => .ok r
    | none => .ok (.unlisted o)

/-- A 64-bit operand from its two words, low half first. -/
def operand64 (lo hi : Word) : Quad := quadOf lo hi

/-- An operand of `k` bits in a word of its own: the bits above it must be 0 (log 3). -/
def operandOf (k : Nat) (w : Word) : Except DecodeError (BitVec k) :=
  if w.toNat < 2 ^ k then .ok (w.setWidth k) else .error .operandTooWide

/-- A register read: the operand is the instance (30_encoding R71). -/
def decodeRead (P : Params) (o : BitVec 16) : List Word → Except DecodeError Instr
  | [n] => (decodeReg P o).map fun
    | .params => .rdParams n.toNat
    | .tlbOp => .rdTlbOp n.toNat
    | .errorStatus => .rdErrorStatus n.toNat
    | .errorAddrLo => .rdErrorAddrLo n.toNat
    | .errorAddrHi => .rdErrorAddrHi n.toNat
    | .config => .rdConfig n.toNat
    | .targetSetLo k => .rdTargetSetLo n.toNat k
    | .targetSetHi k => .rdTargetSetHi n.toNat k
    | .sidRemap w => .rdSidRemap n.toNat w
    | .tcr p => .rdTcr n.toNat p
    | .ttbr p i => .rdTtbr n.toNat p i
    | .unlisted o => .rdUnlisted n.toNat o
  | _ => .error .operandCount

/-- A register write: the operands are the instance and the 32-bit value (30_encoding R71). -/
def decodeWrite (P : Params) (o : BitVec 16) : List Word → Except DecodeError Instr
  | [n, v] => (decodeReg P o).map fun
    | .params => .wrParams n.toNat v
    | .tlbOp => .wrTlbOp n.toNat v
    | .errorStatus => .wrErrorStatus n.toNat v
    | .errorAddrLo => .wrErrorAddrLo n.toNat v
    | .errorAddrHi => .wrErrorAddrHi n.toNat v
    | .config => .wrConfig n.toNat v
    | .targetSetLo k => .wrTargetSetLo n.toNat k v
    | .targetSetHi k => .wrTargetSetHi n.toNat k v
    | .sidRemap w => .wrSidRemap n.toNat w v
    | .tcr p => .wrTcr n.toNat p v
    | .ttbr p i => .wrTtbr n.toNat p i v
    | .unlisted o => .wrUnlisted n.toNat o v
  | _ => .error .operandCount

/-- A translate request (30_encoding R72): `D[16:6]` = 0, `want_w` = `D[5]`, `want_r` = `D[4]`, `sid` =
`D[3:0]`; operands the instance and the 64-bit IOVA. -/
def decodeXlate (d : BitVec 20) (ops : List Word) : Except DecodeError Instr :=
  if d.extractLsb' 6 11 ≠ 0 then .error .mustBeZero
  else match ops with
    | [n, lo, hi] =>
      .ok (.xlate n.toNat (d.extractLsb' 0 4) (d.getLsbD 4) (d.getLsbD 5) (operand64 lo hi))
    | _ => .error .operandCount

/-- `INV.RUN` and `RESET` (30_encoding R73): `D[16:0]` = 0; operand the instance. -/
def decodeBare (d : BitVec 20) (make : Nat → Instr) (ops : List Word) : Except DecodeError Instr :=
  if d.extractLsb' 0 17 ≠ 0 then .error .mustBeZero
  else match ops with
    | [n] => .ok (make n.toNat)
    | _ => .error .operandCount

/-- The operands of an internal operation, by sub-code (30_encoding R73 and each operation's own
rule). -/
def decodeSub (sub : Nat) (ops : List Word) : Except DecodeError Instr :=
  match sub, ops with
  | 0, [n, sid] => (operandOf 4 sid).map (.resolve n.toNat ·)
  | 1, [t0, t1, t2, t3, lo, hi] => .ok (.walk t0 t1 t2 t3 (operand64 lo hi))
  | 2, [n, psid, lo, hi] => (operandOf 4 psid).map (.tlbLookup n.toNat · (operand64 lo hi))
  | 3, [n, psid, lo, hi, blo, bhi, perm] =>
    match operandOf 4 psid, operandOf 2 perm with
    | .ok p, .ok q => .ok (.tlbInsert n.toNat p (operand64 lo hi) (operand64 blo bhi) q)
    | .error e, _ => .error e
    | _, .error e => .error e
  | 4, [n, lo, hi] => .ok (.tlbInvalidate n.toNat (operand64 lo hi))
  | 5, [n] => .ok (.tlbClearAll n.toNat)
  | 6, [n, bits, lo, hi, psid] =>
    (operandOf 4 psid).map (.faultLatch n.toNat bits (operand64 lo hi) ·)
  | 7, [] => .ok .irqEval
  | _, _ => if sub < 8 then .error .operandCount else .error .reservedSubcode

/-- Class 7: `D[16:4]` = 0, `D[3:0]` the sub-code (30_encoding R73). -/
def decodeInternal (d : BitVec 20) (ops : List Word) : Except DecodeError Instr :=
  if d.extractLsb' 4 13 ≠ 0 then .error .mustBeZero
  else decodeSub (d.extractLsb' 0 4).toNat ops

/-- The operation of a descriptor with its operand words, by class (30_encoding R70). -/
def decodeDescriptor (P : Params) (d : BitVec 20) (ops : List Word) : Except DecodeError Instr :=
  match (d.extractLsb' 17 3).toNat with
  | 0 =>
    if d.getLsbD 16 then decodeWrite P (d.extractLsb' 0 16) ops
    else decodeRead P (d.extractLsb' 0 16) ops
  | 1 => decodeXlate d ops
  | 2 => decodeBare d .invRun ops
  | 3 => decodeBare d .reset ops
  | 7 => decodeInternal d ops
  | _ => .error .reservedClass

/-- The decoder: total on any packet, refusing by name. -/
def decode (P : Params) : List Word → Except DecodeError Instr
  | [] => .error .empty
  | w :: ops =>
    if w.extractLsb' 20 12 ≠ 0 then .error .descriptorTooWide
    else decodeDescriptor P (w.extractLsb' 0 20) ops

/-- The offset of a register (30_encoding R74); 0 for a target set the layout does not have. -/
def Reg.offset (P : Params) : Reg → BitVec 16
  | .params => 0x000
  | .tlbOp => 0x020
  | .errorStatus => 0x040
  | .errorAddrLo => 0x050
  | .errorAddrHi => 0x054
  | .config => 0x060
  | .targetSetLo k => match P.setOffsets[k]? with
    | some (lo, _) => lo
    | none => 0
  | .targetSetHi k => match P.setOffsets[k]? with
    | some (_, hi) => hi
    | none => 0
  | .sidRemap w => 0x080 + w.setWidth 16 <<< 2
  | .tcr p => 0x100 + p.setWidth 16 <<< 2
  | .ttbr p i => 0x200 + p.setWidth 16 <<< 4 + i.setWidth 16 <<< 2
  | .unlisted o => o

/-- The descriptor of a register access: class 0, `rw`, offset (30_encoding R71). -/
def busDescriptor (write : Bool) (o : BitVec 16) : BitVec 20 :=
  (0#3 ++ BitVec.ofBool write) ++ o

/-- The descriptor of an internal operation (30_encoding R73). -/
def internalDescriptor (sub : BitVec 4) : BitVec 20 := (7#3 ++ 0#13) ++ sub

/-- The descriptor of an operation (30_encoding R71 to R73). -/
def descriptorOf (P : Params) : Instr → BitVec 20
  | .rdParams _ => busDescriptor false (Reg.params.offset P)
  | .wrParams _ _ => busDescriptor true (Reg.params.offset P)
  | .rdTlbOp _ => busDescriptor false (Reg.tlbOp.offset P)
  | .wrTlbOp _ _ => busDescriptor true (Reg.tlbOp.offset P)
  | .rdTargetSetLo _ k => busDescriptor false ((Reg.targetSetLo k).offset P)
  | .wrTargetSetLo _ k _ => busDescriptor true ((Reg.targetSetLo k).offset P)
  | .rdTargetSetHi _ k => busDescriptor false ((Reg.targetSetHi k).offset P)
  | .wrTargetSetHi _ k _ => busDescriptor true ((Reg.targetSetHi k).offset P)
  | .rdErrorStatus _ => busDescriptor false (Reg.errorStatus.offset P)
  | .wrErrorStatus _ _ => busDescriptor true (Reg.errorStatus.offset P)
  | .rdErrorAddrLo _ => busDescriptor false (Reg.errorAddrLo.offset P)
  | .wrErrorAddrLo _ _ => busDescriptor true (Reg.errorAddrLo.offset P)
  | .rdErrorAddrHi _ => busDescriptor false (Reg.errorAddrHi.offset P)
  | .wrErrorAddrHi _ _ => busDescriptor true (Reg.errorAddrHi.offset P)
  | .rdConfig _ => busDescriptor false (Reg.config.offset P)
  | .wrConfig _ _ => busDescriptor true (Reg.config.offset P)
  | .rdSidRemap _ w => busDescriptor false ((Reg.sidRemap w).offset P)
  | .wrSidRemap _ w _ => busDescriptor true ((Reg.sidRemap w).offset P)
  | .rdTcr _ p => busDescriptor false ((Reg.tcr p).offset P)
  | .wrTcr _ p _ => busDescriptor true ((Reg.tcr p).offset P)
  | .rdTtbr _ p i => busDescriptor false ((Reg.ttbr p i).offset P)
  | .wrTtbr _ p i _ => busDescriptor true ((Reg.ttbr p i).offset P)
  | .rdUnlisted _ o => busDescriptor false o
  | .wrUnlisted _ o _ => busDescriptor true o
  | .xlate _ sid r w _ =>
    (((1#3 ++ 0#11) ++ BitVec.ofBool w) ++ BitVec.ofBool r) ++ sid
  | .invRun _ => 2#3 ++ 0#17
  | .reset _ => 3#3 ++ 0#17
  | .resolve _ _ => internalDescriptor 0
  | .walk _ _ _ _ _ => internalDescriptor 1
  | .tlbLookup _ _ _ => internalDescriptor 2
  | .tlbInsert _ _ _ _ _ => internalDescriptor 3
  | .tlbInvalidate _ _ => internalDescriptor 4
  | .tlbClearAll _ => internalDescriptor 5
  | .faultLatch _ _ _ _ => internalDescriptor 6
  | .irqEval => internalDescriptor 7

/-- An instance number as an operand word. -/
def instWord (n : Nat) : Word := BitVec.ofNat 32 n

/-- The operand words of an operation (log 3). -/
def operandsOf : Instr → List Word
  | .rdParams n | .rdTlbOp n | .rdTargetSetLo n _ | .rdTargetSetHi n _ | .rdErrorStatus n
  | .rdErrorAddrLo n | .rdErrorAddrHi n | .rdConfig n | .rdSidRemap n _ | .rdTcr n _
  | .rdTtbr n _ _ | .rdUnlisted n _ => [instWord n]
  | .wrParams n v | .wrTlbOp n v | .wrTargetSetLo n _ v | .wrTargetSetHi n _ v
  | .wrErrorStatus n v | .wrErrorAddrLo n v | .wrErrorAddrHi n v | .wrConfig n v
  | .wrSidRemap n _ v | .wrTcr n _ v | .wrTtbr n _ _ v | .wrUnlisted n _ v => [instWord n, v]
  | .xlate n _ _ _ iova => [instWord n, loWord iova, hiWord iova]
  | .invRun n | .reset n | .tlbClearAll n => [instWord n]
  | .resolve n sid => [instWord n, sid.setWidth 32]
  | .walk t0 t1 t2 t3 page => [t0, t1, t2, t3, loWord page, hiWord page]
  | .tlbLookup n psid page => [instWord n, psid.setWidth 32, loWord page, hiWord page]
  | .tlbInsert n psid page block perm =>
    [instWord n, psid.setWidth 32, loWord page, hiWord page, loWord block, hiWord block,
      perm.setWidth 32]
  | .tlbInvalidate n mask => [instWord n, loWord mask, hiWord mask]
  | .faultLatch n bits addr psid => [instWord n, bits, loWord addr, hiWord addr, psid.setWidth 32]
  | .irqEval => []

/-- The encoder: the packet of an operation. -/
def encode (P : Params) (i : Instr) : List Word :=
  (descriptorOf P i).setWidth 32 :: operandsOf i

/-- How many operand words the operation of a descriptor has (log 3). -/
def operandCount (d : BitVec 20) : Nat :=
  match (d.extractLsb' 17 3).toNat with
  | 0 => if d.getLsbD 16 then 2 else 1
  | 1 => 3
  | 2 | 3 => 1
  | 7 => match (d.extractLsb' 0 4).toNat with
    | 0 => 2
    | 1 => 6
    | 2 => 4
    | 3 => 7
    | 4 => 3
    | 5 => 1
    | 6 => 5
    | _ => 0
  | _ => 0

/-- The packet whose bits are `w`, `nbits` of them given and every later one 0: word `j` holds bits
`32j+31 .. 32j`, as many words as the descriptor's operation has. -/
def tablePacket (nbits w : Nat) : List Word :=
  let bits := w % 2 ^ nbits
  let first : Word := BitVec.ofNat 32 bits
  first :: (List.range (operandCount (first.extractLsb' 0 20))).map
    fun j => BitVec.ofNat 32 (bits >>> (32 * (j + 1)))

/-- The operation the decoder reads from the bits `w` of a row of spec/opcode_table.json, under the
default layout. -/
def decodeTableWord (nbits w : Nat) : Option Instr :=
  match decode Params.default (tablePacket nbits w) with
  | .ok i => some i
  | .error _ => none

end Sys2Proof
end

