-- ==== Sys2Proof/Machine/State.lean ====
section
/-! DEFINITION. The state of one DartController with its instances, of the requests in flight, and of
the collaborators around it, as plain data, and the state right after reset (10_state R15 to R40). -/

namespace Sys2Proof.Machine

/-- The five fault kinds (60_exceptions R169). -/
inductive FaultKind where
  | ttbrInvalid
  | levelReadError
  | pteInvalid
  | writeProt
  | readProt
deriving DecidableEq, Repr

/-- The three kinds a walk can end in (40_page_walker R98, R103). -/
inductive WalkFault where
  | ttbrInvalid
  | levelReadError
  | pteInvalid
deriving DecidableEq, Repr

/-- `TlbEntry` (00_scope R14, 10_state R28). -/
structure TlbEntry where
  blockAddr : Quad
  perm      : Perm
deriving DecidableEq, Repr

/-- A key of the translation cache: the pair, not its packing (10_state R37 b). -/
structure TlbKey where
  psid : Sid
  page : Quad
deriving DecidableEq, Repr

/-- The translation cache: a finite map in canonical form, keys strictly rising (10_state R28). -/
abbrev Tlb := List (TlbKey × TlbEntry)

/-- The result of a walk (40_page_walker R98). -/
inductive WalkResult where
  | ok (e : TlbEntry)
  | fault (k : WalkFault)
deriving DecidableEq, Repr

/-- The result of `XLATE` (30_encoding R90); an unset `translated` is absent (D24). -/
structure XlateResult where
  translated : Option Quad
  perm       : Perm
  addrMask   : Quad
deriving DecidableEq, Repr

/-- The operands of a translate request, with the physical SID it resolved to (43 R136, R138). -/
structure Request where
  inst  : Nat
  sid   : Sid
  iova  : Quad
  wantR : Bool
  wantW : Bool
  psid  : Sid
deriving DecidableEq, Repr

/-- The two in-memory levels of a walk (00_scope R9 `N_LEVELS`). -/
inductive Level where
  | one
  | two
deriving DecidableEq, Repr

/-- Where a walk in flight stands: a level's entry is to be read at the given table base, or the walk
has its result and the closing section is owed (10_state R33). -/
inductive Phase where
  | reading (level : Level) (base : Quad)
  | done (w : WalkResult)
deriving DecidableEq, Repr

/-- What a walk in flight is for: a translate request, or an internal `WALK` issued by itself
(log 9). -/
inductive Purpose where
  | request (r : Request)
  | bareWalk
deriving DecidableEq, Repr

/-- Transient state of one walk in flight (10_state R33). -/
structure Flight where
  /-- names the request in turns and results (log 15) -/
  ticket  : Nat
  purpose : Purpose
  page    : Quad
  /-- the snapshot of the selected TTBR word -/
  ttbr    : Word
  phase   : Phase
deriving DecidableEq, Repr

/-- Transient state of the `INV.RUN` in flight after T1: the latched mask, and the SIDs still to be
notified, in order (10_state R34, 44 R162). T3 is next when none are left. -/
structure Task where
  mask : Quad
  owed : List Sid
deriving DecidableEq, Repr

/-- The state of a Translating instance (10_state R20 to R31, R34). -/
structure Translating where
  remap        : Vector Byte 16
  tcr          : Vector Word 16
  ttbr         : Vector (Vector Word 4) 16
  config       : Word
  tlbOp        : Word
  targetSets   : List Quad
  pendingInval : Option Quad
  task         : Option Task
  tlb          : Tlb
  faultStatus  : Word
  faultAddr    : Quad
  faultSid     : Sid
deriving DecidableEq, Repr

/-- An instance, tagged by its kind (10_state R17). -/
inductive Inst where
  | translating (t : Translating)
  | companion
  | unknown
deriving DecidableEq, Repr

/-- Physical memory, as the memory collaborator answers from it (20_memory R66): keys strictly rising, no
byte listed that equals what an unlisted address reads as (log 6). -/
abbrev Memory := List Host.Cell

/-- What the outside offers, in order: an event received by the engine, an internal operation issued
on the model's own port (log 9), or a move of the memory collaborator (30_encoding R93 `MEM64`,
`MEMFAIL`; log 5). -/
inductive Input where
  | event (packet : List Word)
  | internal (packet : List Word)
  | mem64 (pa value : Quad)
  | memFail (pa : Quad)
deriving DecidableEq, Repr

/-- Which agent moves next (20_memory R57; log 4). -/
inductive Turn where
  /-- the next input is received -/
  | input
  /-- the request in flight with this ticket moves -/
  | request (ticket : Nat)
  /-- the event loop moves the deferred task of this instance -/
  | task (n : Nat)
  /-- nobody moves -/
  | idle
deriving DecidableEq, Repr

/-- What a step makes visible outside: results, reads of physical memory, notifications. -/
inductive Output where
  /-- the value of a register read on an instance -/
  | readValue (n : Nat) (value : Word)
  /-- the result of the `XLATE` with this ticket (30_encoding R90) -/
  | xlate (ticket : Nat) (r : XlateResult)
  /-- one `read_physical(addr, 8)` with its answer, `none` for `Fail` (30_encoding R96) -/
  | readPhysical (addr : Quad) (answer : Option Bytes8)
  /-- one `notify_unmap(sid, start, len)` of an instance (30_encoding R95) -/
  | notifyUnmap (n : Nat) (sid : Sid) (start : Quad) (len : Nat)
  /-- the result of an internal `RESOLVE` -/
  | resolved (psid : Sid)
  /-- the result of the internal `WALK` with this ticket -/
  | walk (ticket : Nat) (w : WalkResult)
  /-- the result of an internal `TLB.LOOKUP` -/
  | lookup (e : Option TlbEntry)
  /-- the level of the interrupt line, as an internal `IRQ.EVAL` answers it -/
  | irq (level : Bool)
deriving DecidableEq, Repr

/-- The whole state. -/
structure State where
  params     : Params
  insts      : List Inst
  flights    : List Flight
  mem        : Memory
  holes      : List Nat
  inputs     : List Input
  turns      : List Turn
  history    : List Output
  nextTicket : Nat
  freeCount  : Nat
deriving DecidableEq, Repr

/-- Reasons for which the machine stops with a fault: there are none. The engine's five faults are
"reported, never thrown as an unrecoverable error" (00_scope R13, 60_exceptions R169), and fatal errors
exist only at construction (R194). Safe: a run never ends in a fault. -/
inductive Fault where
deriving DecidableEq, Repr

/-- Reasons for which an event has no meaning (00_scope R13 "refused"). All are safe: the machine stops
and nothing is claimed of what follows. -/
inductive Refusal where
  /-- An operation of the table that has no meaning in this model; raised by `exec`'s arms. Safe. -/
  | notModelled (mnemonic : String)
  /-- The packet spells no operation (30_encoding R91); raised by `step`. Safe. -/
  | undecodable (e : DecodeError)
  /-- An internal operation received from outside, which never happens (30_encoding R73); raised by
  `step`. Safe. -/
  | internalFromOutside
  /-- An external operation on the port for internal ones (log 9); raised by `step`. Safe. -/
  | externalOnInternalPort
  /-- The controller has no instance of this number; raised by every operation on an instance. Safe. -/
  | noInstance (n : Nat)
  /-- The instance is of kind Companion or Unknown (10_state R17, 42 R130); raised by every operation on
  an instance. Safe. -/
  | notTranslating (n : Nat)
  /-- The requesting SID is not present (43 R149 b); raised by `XLATE`. Safe. -/
  | absentSid (sid : Sid)
  /-- The layout has no target set of this number (00_scope R9); raised by the target-set operations,
  never on a packet the decoder accepts. Safe. -/
  | noTargetSet (k : Nat)
  /-- `INV.RUN` is enabled only while a task is queued (44 R162); raised by `INV.RUN`. Safe. -/
  | taskNotQueued (n : Nat)
  /-- The event loop runs at most one deferred task at a time (70 R213); raised by `INV.RUN` on one
  instance while another instance's task is between its steps. Safe. -/
  | eventLoopBusy (n : Nat)
  /-- A turn names a request that is not in flight (log 4); raised by `step`. Safe. -/
  | noSuchRequest (ticket : Nat)
  /-- A turn takes an input and none is left (log 4); raised by `step`. Safe. -/
  | noInput
deriving DecidableEq, Repr

/-- The state of a Translating instance after `RESET`, and after construction (10_state R38, 70 R198), with
`nSets` target sets. -/
def Translating.reset (nSets : Nat) : Translating where
  remap        := #v[0, 1, 2, 3, 4, 5, 6, 7, 8, 9, 10, 11, 12, 13, 14, 15]
  tcr          := Vector.replicate 16 0
  ttbr         := Vector.replicate 16 (Vector.replicate 4 0)
  config       := 0
  tlbOp        := 0
  targetSets   := List.replicate nSets 0
  pendingInval := none
  task         := none
  tlb          := []
  faultStatus  := 0
  faultAddr    := 0
  faultSid     := 0

/-- The state right after construction (70 R198), under the parameters of the spec's test vectors and with
one Translating instance (log 1); nothing in flight, nothing offered from outside. -/
def State.reset : State where
  params     := Params.default
  insts      := [.translating (Translating.reset Params.default.nSets)]
  flights    := []
  mem        := []
  holes      := []
  inputs     := []
  turns      := []
  history    := []
  nextTicket := 0
  freeCount  := 0

end Sys2Proof.Machine
end

