-- ==== Sys2Proof/Machine/Operands.lean ====
section
/-! DEFINITION. The word-level formats and computations: page geometry, IOVA split, table entries,
remap bytes, register words, the packed cache key (30_encoding R75 to R90). -/

namespace Sys2Proof.Machine

/-- `PAGE_SHIFT` (00_scope R8). -/
def pageShift : PageSize → Nat
  | .k4 => 12
  | .k16 => 14

/-- `PAGE_SIZE - 1`, also the `addr_mask` of every result (30_encoding R90). -/
def pageMask : PageSize → Quad
  | .k4 => 0xFFF
  | .k16 => 0x3FFF

/-- `VA_BITS` (30_encoding R88). -/
def vaBits : PageSize → Nat
  | .k4 => 32
  | .k16 => 38

/-- `L_MASK[0]` and `L_SHIFT[0]`: the field that selects a TTBR slot (30_encoding R88). -/
def slotMask : PageSize → Quad
  | .k4 => 0xC0000
  | .k16 => 0xC00000

def slotShift : PageSize → Nat
  | .k4 => 18
  | .k16 => 22

/-- `L_MASK[1]`, `L_MASK[2]` (30_encoding R88). -/
def levelMask : PageSize → Level → Quad
  | .k4, .one => 0x3FE00
  | .k4, .two => 0x1FF
  | .k16, .one => 0x3FF800
  | .k16, .two => 0x7FF

/-- `L_SHIFT[1]`, `L_SHIFT[2]` (30_encoding R88). -/
def levelShift : PageSize → Level → Nat
  | .k4, .one => 9
  | .k4, .two => 0
  | .k16, .one => 11
  | .k16, .two => 0

/-- The IOVA page index (30_encoding R87). -/
def pageOf (z : PageSize) (iova : Quad) : Quad := iova >>> pageShift z

/-- `idx_0`, as the 64-bit value of 30_encoding R87. -/
def slotIndex (z : PageSize) (page : Quad) : Quad := (page &&& slotMask z) >>> slotShift z

/-- `idx_0` as the number of a TTBR slot (40_page_walker R99: "a value in 0..3"). -/
def slotOf (z : PageSize) (page : Quad) : BitVec 2 := (slotIndex z page).setWidth 2

/-- `idx_1`, `idx_2` (30_encoding R87). -/
def levelIndex (z : PageSize) (l : Level) (page : Quad) : Quad :=
  (page &&& levelMask z l) >>> levelShift z l

/-- `VALID` of a TTBR word (30_encoding R78). -/
def ttbrValid (t : Word) : Bool := t.getLsbD 31

/-- The level-1 table base of a TTBR word (30_encoding R78). -/
def ttbrBase (t : Word) : Quad := (t &&& 0x0FFFFFFF).setWidth 64 <<< 12

/-- The address of a table entry (30_encoding R89). -/
def entryAddr (base idx : Quad) : Quad := base + 8 * idx

/-- 8 bytes assembled little-endian (20_memory R50). -/
def le64 (b : Bytes8) : Quad :=
  b[0].setWidth 64 ||| b[1].setWidth 64 <<< 8 ||| b[2].setWidth 64 <<< 16
    ||| b[3].setWidth 64 <<< 24 ||| b[4].setWidth 64 <<< 32 ||| b[5].setWidth 64 <<< 40
    ||| b[6].setWidth 64 <<< 48 ||| b[7].setWidth 64 <<< 56

/-- Byte `j` of a 64-bit value stored little-endian (20_memory R50). -/
def byteOf (v : Quad) (j : Nat) : Byte := v.extractLsb' (8 * j) 8

/-- `VALID` of a table entry (30_encoding R84). -/
def pteValid (pte : Quad) : Bool := pte.getLsbD 0

/-- `PTE_ADDR_MASK` (30_encoding R84). -/
def pteAddrMask : Quad := 0x0000000FFFFFF000

/-- The masked address of a table entry (30_encoding R84). -/
def pteAddr (z : PageSize) (pte : Quad) : Quad := pte &&& pteAddrMask &&& ~~~ pageMask z

/-- A permission from its two flags (30_encoding R85). -/
def permOf (readable writable : Bool) : Perm := BitVec.ofBool writable ++ BitVec.ofBool readable

/-- The permission of a leaf entry: `NO_WRITE` is bit 7, `NO_READ` bit 8 (30_encoding R84, R85). -/
def ptePerm (pte : Quad) : Perm := permOf (!pte.getLsbD 8) (!pte.getLsbD 7)

def permReadable (p : Perm) : Bool := p.getLsbD 0

def permWritable (p : Perm) : Bool := p.getLsbD 1

/-- The `PARAMS` word (30_encoding R75). -/
def paramsWord (z : PageSize) : Word := BitVec.ofNat 32 (pageShift z) <<< 24

/-- The number of a logical SID: byte `j` of remap word `w` (30_encoding R76). -/
def remapSid (w j : BitVec 2) : Sid := w ++ j

/-- The `SID_REMAP[w]` word (30_encoding R76). -/
def remapWord (remap : Vector Byte 16) (w : BitVec 2) : Word :=
  (remap.get (remapSid w 3).toFin ++ remap.get (remapSid w 2).toFin)
    ++ (remap.get (remapSid w 1).toFin ++ remap.get (remapSid w 0).toFin)

/-- The remap table after a write of `SID_REMAP[w]` (42_stream_config R122). -/
def setRemapWord (remap : Vector Byte 16) (w : BitVec 2) (v : Word) : Vector Byte 16 :=
  (((remap.set (remapSid w 0).toNat (v.extractLsb' 0 8) (remapSid w 0).isLt).set
    (remapSid w 1).toNat (v.extractLsb' 8 8) (remapSid w 1).isLt).set
    (remapSid w 2).toNat (v.extractLsb' 16 8) (remapSid w 2).isLt).set
    (remapSid w 3).toNat (v.extractLsb' 24 8) (remapSid w 3).isLt

/-- `RESOLVE`: the remap byte masked to 4 bits (42_stream_config R117). -/
def resolveSid (remap : Vector Byte 16) (s : Sid) : Sid :=
  (remap.get s.toFin &&& 0x0F).setWidth 4

/-- One TTBR word (10_state R22). -/
def ttbrAt (ttbr : Vector (Vector Word 4) 16) (p : Sid) (i : BitVec 2) : Word :=
  (ttbr.get p.toFin).get i.toFin

/-- The TTBR words after a write of one (42_stream_config R127). -/
def setTtbr (ttbr : Vector (Vector Word 4) 16) (p : Sid) (i : BitVec 2) (v : Word) :
    Vector (Vector Word 4) 16 :=
  ttbr.set p.toNat ((ttbr.get p.toFin).set i.toNat v i.isLt) p.isLt

/-- The packed key of 30_encoding R86; the cache itself is keyed by the pair (10_state R37 b). -/
def packedKey (k : TlbKey) : Quad := k.psid.setWidth 64 <<< 53 ||| k.page

/-- The length a notification carries: the whole IOVA space (20_memory R67). -/
def spaceLength (z : PageSize) : Nat := 2 ^ vaBits z

end Sys2Proof.Machine
end

