-- ==== Sys2Proof/Machine/Flags.lean ====
section
/-! DEFINITION. The flag-like fields (10_state R35): stream policy bits, the fields of the TLB
operation word, the fault bits and the interrupt line. -/

namespace Sys2Proof.Machine

/-- `EN` of a TCR word (30_encoding R77). -/
def tcrEnabled (c : Word) : Bool := c.getLsbD 7

/-- `BYPASS` of a TCR word (30_encoding R77). -/
def tcrBypass (c : Word) : Bool := c.getLsbD 8

/-- The bypass condition (43_translation_engine R139). -/
def bypassApplies (P : Params) (t : Translating) (p : Sid) : Bool :=
  P.bypassMask.getLsbD p.toNat || !tcrEnabled (t.tcr.get p.toFin) || tcrBypass (t.tcr.get p.toFin)

/-- A translate port exists for the requesting SID (43_translation_engine R149 b). -/
def sidPresent (P : Params) (s : Sid) : Bool := P.sidPresent.getLsbD s.toNat

/-- The mask of one fault kind (60_exceptions R170). -/
def FaultKind.bit : FaultKind → Word
  | .ttbrInvalid => 0x01
  | .levelReadError => 0x02
  | .pteInvalid => 0x04
  | .writeProt => 0x08
  | .readProt => 0x10

/-- A walk's fault among the five kinds. -/
def WalkFault.kind : WalkFault → FaultKind
  | .ttbrInvalid => .ttbrInvalid
  | .levelReadError => .levelReadError
  | .pteInvalid => .pteInvalid

/-- `FAULT_ALL` (30_encoding R81). -/
def faultAll : Word := 0x1F

/-- The protection faults of a request against an entry's permission (43_translation_engine R145). -/
def protBits (perm : Perm) (wantR wantW : Bool) : Word :=
  (if wantW && !permWritable perm then FaultKind.writeProt.bit else 0)
    ||| (if wantR && !permReadable perm then FaultKind.readProt.bit else 0)

/-- The `ERROR_STATUS` read view (60_exceptions R176). -/
def errorStatusWord (status : Word) (sid : Sid) : Word :=
  if status = 0 then 0 else status ||| sid.setWidth 32 <<< 24

/-- `BUSY` (30_encoding R79). -/
def opBusy (w : Word) : Bool := w.getLsbD 2

/-- `OPCODE` (30_encoding R79). -/
def opOpcode (w : Word) : BitVec 4 := w.extractLsb' 20 4

def busyField : Word := 0x00000004

def opcodeField : Word := 0x00F00000

/-- `SET_SEL_FIELD` for `N_SETS` target sets (44 R153). -/
def setSelField (nSets : Nat) : Word := ((1#32 <<< nSets) - 1) <<< 8

/-- The or of the target sets whose selector bit is set, the sets numbered from `k` on
(44 R155). -/
def selectedFrom (v : Word) (k : Nat) : List Quad → Quad
  | [] => 0
  | x :: rest => (if v.getLsbD (8 + k) then x else 0) ||| selectedFrom v (k + 1) rest

/-- The SID mask of an operation write (44 R155). -/
def selectedMask (v : Word) (sets : List Quad) : Quad := selectedFrom v 0 sets

/-- The operation word after an accepted write (44 R153). -/
def acceptedOp (nSets : Nat) (v : Word) : Word :=
  (v &&& (opcodeField ||| setSelField nSets)) ||| busyField

/-- The operation word after completion (44 R162 T3, R163). -/
def completedOp (w : Word) : Word := w &&& ~~~ busyField &&& ~~~ opcodeField

/-- The SIDs an invalidation notifies: those of the mask that are present, ascending
(44 R162, R166). -/
def notifyList (P : Params) (mask : Quad) : List Sid :=
  ((List.range 16).map (BitVec.ofNat 4)).filter
    fun s => mask.getLsbD s.toNat && sidPresent P s

/-- This instance has an unacknowledged fault (60_exceptions R182). -/
def Inst.faulting : Inst → Bool
  | .translating t => t.faultStatus != 0
  | .companion | .unknown => false

/-- The interrupt line: a function of state, not state (10_state R32, 60_exceptions R182). -/
def State.irq (s : State) : Bool := s.insts.any Inst.faulting

end Sys2Proof.Machine
end

