-- ==== Sys2Proof/Machine/Ops.lean ====
section
/-! DEFINITION. The shared operations: canonical maps, physical memory, access to an instance, the
four cache operations, latching and acknowledging a fault, the shape of a register read and a register
write. -/

namespace Sys2Proof.Machine

/-- A map in canonical form: the ranks of its keys strictly rising. -/
abbrev Rising {α β : Type} (rank : α → Nat) (m : List (α × β)) : Prop :=
  m.Pairwise fun x y => rank x.1 < rank y.1

/-- The value at a key. -/
def mapFind {α β : Type} [DecidableEq α] (k : α) : List (α × β) → Option β
  | [] => none
  | (k', v) :: rest => if k = k' then some v else mapFind k rest

/-- The map with a key's value set, in canonical form. -/
def mapSet {α β : Type} (rank : α → Nat) (k : α) (v : β) : List (α × β) → List (α × β)
  | [] => [(k, v)]
  | (k', v') :: rest =>
    if rank k < rank k' then (k, v) :: (k', v') :: rest
    else if rank k = rank k' then (k, v) :: rest
    else (k', v') :: mapSet rank k v rest

/-- The map without a key. -/
def mapErase {α β : Type} [DecidableEq α] (k : α) (m : List (α × β)) : List (α × β) :=
  m.filter fun x => decide (x.1 ≠ k)

/-- What a byte of memory that is not listed reads as (log 6). -/
def unlistedByte : Byte := 0

/-- One byte of physical memory. -/
def Memory.read (m : Memory) (a : Nat) : Byte := (mapFind a m).getD unlistedByte

/-- Memory with one byte set, in canonical form. -/
def Memory.write (m : Memory) (a : Nat) (b : Byte) : Memory :=
  if b = unlistedByte then mapErase a m else mapSet id a b m

/-- The canonical form of memory: keys strictly rising and inside the 64-bit space (20_memory R47), no
entry equal to what an unlisted address reads as. -/
abbrev Memory.wf (m : Memory) : Prop :=
  Rising id m ∧ ∀ c ∈ m, c.1 < 2 ^ 64 ∧ c.2 ≠ unlistedByte

/-- The addresses of the 8 bytes from `a` on, wrapping at the top of the space. -/
def byteAddr (a : Quad) (j : Nat) : Nat := (a + BitVec.ofNat 64 j).toNat

/-- The 8 bytes at an address. -/
def Memory.read8 (m : Memory) (a : Quad) : Bytes8 :=
  #v[m.read (byteAddr a 0), m.read (byteAddr a 1), m.read (byteAddr a 2), m.read (byteAddr a 3),
    m.read (byteAddr a 4), m.read (byteAddr a 5), m.read (byteAddr a 6), m.read (byteAddr a 7)]

/-- Memory with the bytes `j` and up (of 8) of a value stored little-endian at `a`
(30_encoding R93 `MEM64`). -/
def storeBytes (a v : Quad) : List Nat → Memory → Memory
  | [], m => m
  | j :: rest, m => storeBytes a v rest (m.write (byteAddr a j) (byteOf v j))

/-- The memory collaborator's `MEM64` (30_encoding R93). -/
def Memory.write8 (m : Memory) (a v : Quad) : Memory := storeBytes a v (List.range 8) m

/-- One address inserted into a strictly rising list. -/
def addHole (a : Nat) : List Nat → List Nat
  | [] => [a]
  | b :: rest => if a < b then a :: b :: rest else if a = b then b :: rest else b :: addHole a rest

/-- The 8 bytes at `a` made unreadable (30_encoding R93 `MEMFAIL`). -/
def addHoles (a : Quad) (h : List Nat) : List Nat :=
  (List.range 8).foldl (fun acc j => addHole (byteAddr a j) acc) h

/-- The 8 bytes at `a` made readable. -/
def removeHoles (a : Quad) (h : List Nat) : List Nat :=
  h.filter fun x => !((List.range 8).map (byteAddr a)).contains x

/-- `read_physical(a, 8)` (20_memory R66): fails if one of the bytes is unreadable. -/
def readPhysical (m : Memory) (holes : List Nat) (a : Quad) : Option Bytes8 :=
  if ((List.range 8).map (byteAddr a)).any holes.contains then none else some (m.read8 a)

/-- The memory collaborator stores 8 bytes (log 5). -/
def State.storeMem (s : State) (a v : Quad) : State :=
  { s with mem := s.mem.write8 a v, holes := removeHoles a s.holes }

/-- The memory collaborator makes 8 bytes unreadable (log 5). -/
def State.failMem (s : State) (a : Quad) : State := { s with holes := addHoles a s.holes }

/-- An output is made visible; the newest stands first. -/
def State.emit (s : State) (o : Output) : State := { s with history := o :: s.history }

/-- Instance `n` with new state. -/
def State.setInst (s : State) (n : Nat) (t : Translating) : State :=
  { s with insts := s.insts.set n (.translating t) }

/-- Every operation is defined only on a Translating instance (10_state R17, 42 R130). -/
def onInst (n : Nat) (s : State) (f : Translating → Host.Outcome State Fault Refusal) :
    Host.Outcome State Fault Refusal :=
  match s.insts[n]? with
  | some (.translating t) => f t
  | some .companion => .refused (.notTranslating n)
  | some .unknown => .refused (.notTranslating n)
  | none => .refused (.noInstance n)

/-- A register read: it returns a value and changes no state (42 R129). -/
def busRead (n : Nat) (s : State) (value : Translating → Word) :
    Host.Outcome State Fault Refusal :=
  onInst n s fun t => .next (s.emit (.readValue n (value t)))

/-- A register write: it returns nothing (42 R129). -/
def busWrite (n : Nat) (s : State) (f : Translating → Translating) :
    Host.Outcome State Fault Refusal :=
  onInst n s fun t => .next (s.setInst n (f t))

/-- The rank of a cache key: SID above page index, as in its packing (30_encoding R86). -/
def tlbRank (k : TlbKey) : Nat := k.psid.toNat * 2 ^ 64 + k.page.toNat

/-- `TLB.LOOKUP` (41 R109). -/
def tlbFind (c : Tlb) (psid : Sid) (page : Quad) : Option TlbEntry := mapFind ⟨psid, page⟩ c

/-- `TLB.INSERT` (41 R110). -/
def tlbSet (c : Tlb) (psid : Sid) (page : Quad) (e : TlbEntry) : Tlb :=
  mapSet tlbRank ⟨psid, page⟩ e c

/-- `TLB.INVALIDATE` (41 R111). -/
def tlbEvict (c : Tlb) (sidMask : Quad) : Tlb :=
  c.filter fun x => !sidMask.getLsbD x.1.psid.toNat

/-- `TLB.CLEAR_ALL` (41 R112). -/
def tlbClear (_ : Tlb) : Tlb := []

/-- `FAULT.LATCH`, all there is of taking a fault (60_exceptions R174, R185): the status bits
accumulate, address and SID are the newest. -/
def latchFault (t : Translating) (bits : Word) (addr : Quad) (psid : Sid) : Translating :=
  { t with faultStatus := t.faultStatus ||| bits, faultAddr := addr, faultSid := psid }

/-- Acknowledging, all there is of returning from a fault (60_exceptions R177, R186): only the status
changes. -/
def ackFault (t : Translating) (val : Word) : Translating :=
  { t with faultStatus := t.faultStatus &&& ~~~ val }

/-- The result with no permission and an unset address (43 R140, R144). -/
def noAccess (z : PageSize) : XlateResult := ⟨none, 0, pageMask z⟩

/-- `RESET` of one instance (70 R196). -/
def resetInst (P : Params) : Translating := Translating.reset P.nSets

end Sys2Proof.Machine
end

