-- ==== Sys2Proof/Machine/Cache.lean ====
section
/-! DEFINITION. The TranslationCache's four internal operations (41_translation_cache). -/

namespace Sys2Proof.Machine

/-- `TLB.LOOKUP` (41 R109). -/
def execTlbLookup (n : Nat) (psid : Sid) (page : Quad) (s : State) :
    Host.Outcome State Fault Refusal :=
  onInst n s fun t => .next (s.emit (.lookup (tlbFind t.tlb psid page)))

/-- `TLB.INSERT` (41 R110). -/
def execTlbInsert (n : Nat) (psid : Sid) (page blockAddr : Quad) (perm : Perm) (s : State) :
    Host.Outcome State Fault Refusal :=
  onInst n s fun t => .next (s.setInst n { t with tlb := tlbSet t.tlb psid page ⟨blockAddr, perm⟩ })

/-- `TLB.INVALIDATE` (41 R111). -/
def execTlbInvalidate (n : Nat) (sidMask : Quad) (s : State) : Host.Outcome State Fault Refusal :=
  onInst n s fun t => .next (s.setInst n { t with tlb := tlbEvict t.tlb sidMask })

/-- `TLB.CLEAR_ALL` (41 R112). -/
def execTlbClearAll (n : Nat) (s : State) : Host.Outcome State Fault Refusal :=
  onInst n s fun t => .next (s.setInst n { t with tlb := tlbClear t.tlb })

end Sys2Proof.Machine
end

