-- ==== Sys2Proof/Machine/FaultUnit.lean ====
section
/-! DEFINITION. The FaultUnit (60_exceptions): the register operations on `ERROR_STATUS` and
`ERROR_ADDR`, and the internal operations `FAULT.LATCH` and `IRQ.EVAL`. -/

namespace Sys2Proof.Machine

/-- `RD.ERROR_STATUS` (60 R176). -/
def execRdErrorStatus (n : Nat) (s : State) : Host.Outcome State Fault Refusal :=
  busRead n s fun t => errorStatusWord t.faultStatus t.faultSid

/-- `WR.ERROR_STATUS`: write-to-clear (60 R177). -/
def execWrErrorStatus (n : Nat) (val : Word) (s : State) : Host.Outcome State Fault Refusal :=
  busWrite n s fun t => ackFault t val

/-- `RD.ERROR_ADDR_LO` (60 R178). -/
def execRdErrorAddrLo (n : Nat) (s : State) : Host.Outcome State Fault Refusal :=
  busRead n s fun t => loWord t.faultAddr

/-- `WR.ERROR_ADDR_LO`: ignored (60 R179). -/
def execWrErrorAddrLo (n : Nat) (_val : Word) (s : State) : Host.Outcome State Fault Refusal :=
  onInst n s fun _ => .next s

/-- `RD.ERROR_ADDR_HI` (60 R180). -/
def execRdErrorAddrHi (n : Nat) (s : State) : Host.Outcome State Fault Refusal :=
  busRead n s fun t => hiWord t.faultAddr

/-- `WR.ERROR_ADDR_HI`: ignored (60 R181). -/
def execWrErrorAddrHi (n : Nat) (_val : Word) (s : State) : Host.Outcome State Fault Refusal :=
  onInst n s fun _ => .next s

/-- `FAULT.LATCH` (60 R174). Total on every `bits`; that they are a non-zero subset of `FAULT_ALL` is
the caller's duty (log 13). -/
def execFaultLatch (n : Nat) (bits : Word) (addr : Quad) (psid : Sid) (s : State) :
    Host.Outcome State Fault Refusal :=
  onInst n s fun t => .next (s.setInst n (latchFault t bits addr psid))

/-- `IRQ.EVAL` (60 R182). -/
def execIrqEval (s : State) : Host.Outcome State Fault Refusal := .next (s.emit (.irq s.irq))

end Sys2Proof.Machine
end

