-- ==== Sys2Proof/Machine/Invalidate.lean ====
section
/-! DEFINITION. The InvalidateController (44_invalidate_controller): the operation word, the target
sets, and the deferred task `INV.RUN`. -/

namespace Sys2Proof.Machine

/-- `RD.TLB_OP` (44 R152). -/
def execRdTlbOp (n : Nat) (s : State) : Host.Outcome State Fault Refusal :=
  busRead n s fun t => t.tlbOp

/-- What a write of the operation word does to the instance (44 R153 to R157). -/
def writeTlbOp (nSets : Nat) (t : Translating) (val : Word) : Translating :=
  if opBusy t.tlbOp then t
  else if opOpcode val = 1 ∧ selectedMask val t.targetSets ≠ 0 then
    { t with tlbOp := acceptedOp nSets val, pendingInval := some (selectedMask val t.targetSets) }
  else t

/-- `WR.TLB_OP` (44 R153). -/
def execWrTlbOp (n : Nat) (val : Word) (s : State) : Host.Outcome State Fault Refusal :=
  busWrite n s fun t => writeTlbOp s.params.nSets t val

/-- A read of half a target set (44 R158, R160). -/
def readTargetSet (n k : Nat) (s : State) (half : Quad → Word) : Host.Outcome State Fault Refusal :=
  onInst n s fun t =>
    match t.targetSets[k]? with
    | some x => .next (s.emit (.readValue n (half x)))
    | none => .refused (.noTargetSet k)

/-- A write of half a target set (44 R159, R161): not gated by `BUSY`, starts nothing. -/
def writeTargetSet (n k : Nat) (s : State) (f : Quad → Quad) : Host.Outcome State Fault Refusal :=
  onInst n s fun t =>
    match t.targetSets[k]? with
    | some x => .next (s.setInst n { t with targetSets := t.targetSets.set k (f x) })
    | none => .refused (.noTargetSet k)

/-- `RD.TARGET_SET_LO` (44 R158). -/
def execRdTargetSetLo (n k : Nat) (s : State) : Host.Outcome State Fault Refusal :=
  readTargetSet n k s loWord

/-- `WR.TARGET_SET_LO` (44 R159). -/
def execWrTargetSetLo (n k : Nat) (val : Word) (s : State) : Host.Outcome State Fault Refusal :=
  writeTargetSet n k s fun x => quadOf val (hiWord x)

/-- `RD.TARGET_SET_HI` (44 R160). -/
def execRdTargetSetHi (n k : Nat) (s : State) : Host.Outcome State Fault Refusal :=
  readTargetSet n k s hiWord

/-- `WR.TARGET_SET_HI` (44 R161). -/
def execWrTargetSetHi (n k : Nat) (val : Word) (s : State) : Host.Outcome State Fault Refusal :=
  writeTargetSet n k s fun x => quadOf (loWord x) val

/-- T1: the entries of the mask's SIDs go, and the task now owes its notifications
(44 R162). -/
def taskEvict (P : Params) (t : Translating) (mask : Quad) : Translating :=
  { t with tlb := tlbEvict t.tlb mask, task := some ⟨mask, notifyList P mask⟩ }

/-- T3: `BUSY` and `OPCODE` cleared, the task gone (44 R162, R163). -/
def taskComplete (t : Translating) : Translating :=
  { t with tlbOp := completedOp t.tlbOp, pendingInval := none, task := none }

/-- The instance has a deferred task between its steps (10_state R34). -/
def Inst.running : Inst → Bool
  | .translating t => t.task.isSome
  | .companion | .unknown => false

/-- Another instance's task is between its steps (70 R213: "run at most one deferred task at a
time"). -/
def loopBusyElsewhere (n : Nat) (s : State) : Bool := (s.insts.set n .unknown).any Inst.running

/-- The next step of an instance's deferred task: T1, then one notification a step, then T3
(20_memory R60, 44 R162, log 11). -/
def taskStep (n : Nat) (s : State) : Host.Outcome State Fault Refusal :=
  onInst n s fun t =>
    match t.pendingInval, t.task with
    | none, _ => .refused (.taskNotQueued n)
    | some mask, none =>
      if loopBusyElsewhere n s then .refused (.eventLoopBusy n)
      else .next (s.setInst n (taskEvict s.params t mask))
    | some _, some ⟨mask, sid :: rest⟩ =>
      .next ((s.setInst n { t with task := some ⟨mask, rest⟩ }).emit
        (.notifyUnmap n sid 0 (spaceLength s.params.pageSize)))
    | some _, some ⟨_, []⟩ => .next (s.setInst n (taskComplete t))

/-- `INV.RUN` (44 R162). -/
def execInvRun (n : Nat) (s : State) : Host.Outcome State Fault Refusal := taskStep n s

end Sys2Proof.Machine
end

