-- ==== Sys2Proof/Machine/Reset.lean ====
section
/-! DEFINITION. `RESET` (70_reset_and_hazards R196). -/

namespace Sys2Proof.Machine

/-- `RESET` of one instance (70 R196): its state goes to the reset values, a queued or running task is
dropped with no notification (R199), requests in flight are left alone (R200). -/
def execReset (n : Nat) (s : State) : Host.Outcome State Fault Refusal :=
  onInst n s fun _ => .next (s.setInst n (resetInst s.params))

end Sys2Proof.Machine
end

