-- ==== Sys2Proof/Machine/StreamConfig.lean ====
section
/-! DEFINITION. StreamConfig (42_stream_config): `RESOLVE` and the register operations on `PARAMS`,
`SID_REMAP`, `TCR`, `TTBR`, `CONFIG` and the unlisted offsets. -/

namespace Sys2Proof.Machine

/-- `RESOLVE` (42 R117). -/
def execResolve (n : Nat) (sid : Sid) (s : State) : Host.Outcome State Fault Refusal :=
  onInst n s fun t => .next (s.emit (.resolved (resolveSid t.remap sid)))

/-- `RD.PARAMS` (42 R119). -/
def execRdParams (n : Nat) (s : State) : Host.Outcome State Fault Refusal :=
  busRead n s fun _ => paramsWord s.params.pageSize

/-- `WR.PARAMS`: accepted and ignored (42 R120). -/
def execWrParams (n : Nat) (_val : Word) (s : State) : Host.Outcome State Fault Refusal :=
  onInst n s fun _ => .next s

/-- `RD.SID_REMAP` (42 R121). -/
def execRdSidRemap (n : Nat) (w : BitVec 2) (s : State) : Host.Outcome State Fault Refusal :=
  busRead n s fun t => remapWord t.remap w

/-- `WR.SID_REMAP` (42 R122). -/
def execWrSidRemap (n : Nat) (w : BitVec 2) (val : Word) (s : State) :
    Host.Outcome State Fault Refusal :=
  busWrite n s fun t => { t with remap := setRemapWord t.remap w val }

/-- `RD.TCR` (42 R123). -/
def execRdTcr (n : Nat) (p : Sid) (s : State) : Host.Outcome State Fault Refusal :=
  busRead n s fun t => t.tcr.get p.toFin

/-- `WR.TCR` (42 R124). -/
def execWrTcr (n : Nat) (p : Sid) (val : Word) (s : State) : Host.Outcome State Fault Refusal :=
  busWrite n s fun t => { t with tcr := t.tcr.set p.toNat val p.isLt }

/-- `RD.TTBR` (42 R126). -/
def execRdTtbr (n : Nat) (p : Sid) (i : BitVec 2) (s : State) : Host.Outcome State Fault Refusal :=
  busRead n s fun t => ttbrAt t.ttbr p i

/-- `WR.TTBR` (42 R127). -/
def execWrTtbr (n : Nat) (p : Sid) (i : BitVec 2) (val : Word) (s : State) :
    Host.Outcome State Fault Refusal :=
  busWrite n s fun t => { t with ttbr := setTtbr t.ttbr p i val }

/-- `RD.CONFIG` (42 R133). -/
def execRdConfig (n : Nat) (s : State) : Host.Outcome State Fault Refusal :=
  busRead n s fun t => t.config

/-- `WR.CONFIG`: stored, no bit has an effect (42 R134). -/
def execWrConfig (n : Nat) (val : Word) (s : State) : Host.Outcome State Fault Refusal :=
  busWrite n s fun t => { t with config := val }

/-- `RD.UNLISTED`: an unspecified value, drawn freely (42 R131, log 7). -/
def execRdUnlisted (n : Nat) (_offset : BitVec 16) (s : State) : Host.Outcome State Fault Refusal :=
  onInst n s fun _ =>
    .next { s.emit (.readValue n (Config.unlistedValue s.freeCount)) with
      freeCount := s.freeCount + 1 }

/-- `WR.UNLISTED`: changes no state (42 R132). -/
def execWrUnlisted (n : Nat) (_offset : BitVec 16) (_val : Word) (s : State) :
    Host.Outcome State Fault Refusal :=
  onInst n s fun _ => .next s

end Sys2Proof.Machine
end

