-- ==== Sys2Proof/Machine/Walker.lean ====
section
/-! DEFINITION. The PageWalker (40_page_walker): the walk's steps as the machine takes them, the walk
as one function (the pseudocode of R102), and the internal operation `WALK`. -/

namespace Sys2Proof.Machine

/-- Level 0: no memory is read; the selected slot's validity is tested and its base formed
(40 R99). -/
def walkStart (ttbr : Word) : Phase :=
  if ttbrValid ttbr then .reading .one (ttbrBase ttbr) else .done (.fault .ttbrInvalid)

/-- The address a level reads its entry at (40 R100). -/
def walkAddr (z : PageSize) (level : Level) (base page : Quad) : Quad :=
  entryAddr base (levelIndex z level page)

/-- What a level makes of the answer of its read (40 R100, R101, R103). -/
def walkRead (z : PageSize) (level : Level) : Option Bytes8 → Phase
  | none => .done (.fault .levelReadError)
  | some bytes =>
    if pteValid (le64 bytes) then
      match level with
      | .one => .reading .two (pteAddr z (le64 bytes))
      | .two => .done (.ok ⟨pteAddr z (le64 bytes), ptePerm (le64 bytes)⟩)
    else .done (.fault .pteInvalid)

/-- Levels 1 and 2 from the table base on, against a memory that answers `read` (40 R102). -/
def walkLevels (z : PageSize) (read : Quad → Option Bytes8) (base page : Quad) : WalkResult :=
  match read (entryAddr base (levelIndex z .one page)) with
  | none => .fault .levelReadError
  | some b1 =>
    if !pteValid (le64 b1) then .fault .pteInvalid
    else
      match read (entryAddr (pteAddr z (le64 b1)) (levelIndex z .two page)) with
      | none => .fault .levelReadError
      | some b2 =>
        if !pteValid (le64 b2) then .fault .pteInvalid
        else .ok ⟨pteAddr z (le64 b2), ptePerm (le64 b2)⟩

/-- `WALK` as one function (40 R102): `t` is the TTBR word `ttbr4[idx0]`. -/
def walkFrom (z : PageSize) (read : Quad → Option Bytes8) (t : Word) (page : Quad) : WalkResult :=
  if ttbrValid t then walkLevels z read (ttbrBase t) page else .fault .ttbrInvalid

/-- The slot of four TTBR words that a page selects (40 R99). -/
def selectTtbr (z : PageSize) (t0 t1 t2 t3 : Word) (page : Quad) : Word :=
  (#v[t0, t1, t2, t3] : Vector Word 4).get (slotOf z page).toFin

/-- `WALK` (40 R102): the level-0 test, then a walk in flight that reads level by level, each read a step
of its own (R105, log 9). -/
def execWalk (t0 t1 t2 t3 : Word) (page : Quad) (s : State) : Host.Outcome State Fault Refusal :=
  let t := selectTtbr s.params.pageSize t0 t1 t2 t3 page
  let s' := { s with nextTicket := s.nextTicket + 1 }
  match walkStart t with
  | .done w => .next (s'.emit (.walk s.nextTicket w))
  | .reading level base =>
    .next { s' with flights := s'.flights ++ [⟨s.nextTicket, .bareWalk, page, t, .reading level base⟩] }

end Sys2Proof.Machine
end

