-- ==== Sys2Proof/Machine/Translate.lean ====
section
/-! DEFINITION. The TranslationEngine (43_translation_engine): section S1 of `XLATE`, the steps of a
request in flight, section S2, and `XLATE` as one function (the pseudocode of R146). -/

namespace Sys2Proof.Machine

/-- PermissionAnnotate (43 R145): the entry's own permission is returned; a direction it does not
allow is only recorded. -/
def annotate (z : PageSize) (t : Translating) (e : TlbEntry) (r : Request) :
    Translating × XlateResult :=
  (if protBits e.perm r.wantR r.wantW = 0 then t
    else latchFault t (protBits e.perm r.wantR r.wantW) r.iova r.psid,
   ⟨some e.blockAddr, e.perm, pageMask z⟩)

/-- A failed walk (43 R144): one kind is latched, no permission and no address are returned. -/
def reportWalkFault (z : PageSize) (t : Translating) (k : WalkFault) (r : Request) :
    Translating × XlateResult :=
  (latchFault t k.kind.bit r.iova r.psid, noAccess z)

/-- How section S1 ends: the request is done, or levels 1 and 2 are to be read from a base, with the
snapshot of the TTBR word (20_memory R59). -/
inductive S1 where
  | finished (t : Translating) (res : XlateResult)
  | walking (snapshot : Word) (level : Level) (base : Quad)

/-- Section S1 of `XLATE` (43 R146): remap, bypass check, cache lookup, the hit path, TTBR selection and
validity. -/
def xlateS1 (P : Params) (t : Translating) (r : Request) : S1 :=
  if bypassApplies P t r.psid then .finished t (noAccess P.pageSize)
  else
    match tlbFind t.tlb r.psid (pageOf P.pageSize r.iova) with
    | some e => .finished (annotate P.pageSize t e r).1 (annotate P.pageSize t e r).2
    | none =>
      let word := ttbrAt t.ttbr r.psid (slotOf P.pageSize (pageOf P.pageSize r.iova))
      match walkStart word with
      | .reading level base => .walking word level base
      | .done _ =>
        .finished (reportWalkFault P.pageSize t .ttbrInvalid r).1
          (reportWalkFault P.pageSize t .ttbrInvalid r).2

/-- Section S2 of `XLATE` (43 R146): the fault is latched, or the cache is re-checked, filled if the key is
still absent, and the entry used is annotated (R143, R144). The configuration is not re-read. -/
def xlateS2 (z : PageSize) (t : Translating) (r : Request) (w : WalkResult) :
    Translating × XlateResult :=
  match w with
  | .fault k => reportWalkFault z t k r
  | .ok new =>
    match tlbFind t.tlb r.psid (pageOf z r.iova) with
    | some e => annotate z t e r
    | none => annotate z { t with tlb := tlbSet t.tlb r.psid (pageOf z r.iova) new } new r

/-- The request an `XLATE` event makes: everything after Remap uses the physical SID
(43 R138). -/
def requestOf (n : Nat) (sid : Sid) (wantR wantW : Bool) (iova : Quad) (t : Translating) :
    Request :=
  ⟨n, sid, iova, wantR, wantW, resolveSid t.remap sid⟩

/-- `XLATE` up to the end of S1 (43 R146); a miss goes on as a flight (20_memory R59). A SID without a
port is refused (R149 b). Every 64-bit IOVA runs (R149 c, log 8). -/
def execXlate (n : Nat) (sid : Sid) (wantR wantW : Bool) (iova : Quad) (s : State) :
    Host.Outcome State Fault Refusal :=
  onInst n s fun t =>
    if sidPresent s.params sid then
      let r := requestOf n sid wantR wantW iova t
      let s' := { s with nextTicket := s.nextTicket + 1 }
      match xlateS1 s.params t r with
      | .finished t' res => .next ((s'.setInst n t').emit (.xlate s.nextTicket res))
      | .walking word level base =>
        .next { s' with flights := s'.flights ++
          [⟨s.nextTicket, .request r, pageOf s.params.pageSize iova, word, .reading level base⟩] }
    else .refused (.absentSid sid)

/-- A flight in place of the one with its ticket. -/
def State.putFlight (s : State) (f : Flight) : State :=
  { s with flights := s.flights.map fun g => if g.ticket = f.ticket then f else g }

/-- The flight of a ticket has returned. -/
def State.dropFlight (s : State) (ticket : Nat) : State :=
  { s with flights := s.flights.filter fun g => decide (g.ticket ≠ ticket) }

/-- The closing step of a flight with its walk's result: S2 for a request, the answer for a bare
walk. -/
def finishFlight (f : Flight) (w : WalkResult) (s : State) : Host.Outcome State Fault Refusal :=
  match f.purpose with
  | .bareWalk => .next (s.emit (.walk f.ticket w))
  | .request r =>
    onInst r.inst s fun t =>
      let out := xlateS2 s.params.pageSize t r w
      .next ((s.setInst r.inst out.1).emit (.xlate f.ticket out.2))

/-- The next step of a flight: one `read_physical`, without the lock, or its closing step
(20_memory R59). -/
def flightStep (f : Flight) (s : State) : Host.Outcome State Fault Refusal :=
  match f.phase with
  | .reading level base =>
    let a := walkAddr s.params.pageSize level base f.page
    let answer := readPhysical s.mem s.holes a
    .next ((s.putFlight { f with phase := walkRead s.params.pageSize level answer }).emit
      (.readPhysical a answer))
  | .done w => finishFlight f w (s.dropFlight f.ticket)

/-- A turn of the request with a ticket. -/
def requestStep (ticket : Nat) (s : State) : Host.Outcome State Fault Refusal :=
  match s.flights.find? fun f => f.ticket == ticket with
  | some f => flightStep f s
  | none => .refused (.noSuchRequest ticket)

/-- `XLATE` as one function, no other agent acting between its sections: the pseudocode of 43 R146
against a memory that answers `read`. -/
def xlateAlone (P : Params) (read : Quad → Option Bytes8) (t : Translating) (r : Request) :
    Translating × XlateResult :=
  let page := pageOf P.pageSize r.iova
  if bypassApplies P t r.psid then (t, noAccess P.pageSize)
  else
    match tlbFind t.tlb r.psid page with
    | some e => annotate P.pageSize t e r
    | none =>
      match walkFrom P.pageSize read (ttbrAt t.ttbr r.psid (slotOf P.pageSize page)) page with
      | .fault k => reportWalkFault P.pageSize t k r
      | .ok new => annotate P.pageSize { t with tlb := tlbSet t.tlb r.psid page new } new r

end Sys2Proof.Machine
end

