-- ==== Sys2Proof/Machine/Dispatch.lean ====
section
/-! DEFINITION. The meaning of every operation, one arm per constructor. -/

namespace Sys2Proof.Machine

def exec (i : Instr) (s : State) : Host.Outcome State Fault Refusal :=
  match i with
  | .rdParams n => Sys2Proof.Machine.execRdParams n s
  | .wrParams n val => Sys2Proof.Machine.execWrParams n val s
  | .rdTlbOp n => Sys2Proof.Machine.execRdTlbOp n s
  | .wrTlbOp n val => Sys2Proof.Machine.execWrTlbOp n val s
  | .rdTargetSetLo n k => Sys2Proof.Machine.execRdTargetSetLo n k s
  | .wrTargetSetLo n k val => Sys2Proof.Machine.execWrTargetSetLo n k val s
  | .rdTargetSetHi n k => Sys2Proof.Machine.execRdTargetSetHi n k s
  | .wrTargetSetHi n k val => Sys2Proof.Machine.execWrTargetSetHi n k val s
  | .rdErrorStatus n => Sys2Proof.Machine.execRdErrorStatus n s
  | .wrErrorStatus n val => Sys2Proof.Machine.execWrErrorStatus n val s
  | .rdErrorAddrLo n => Sys2Proof.Machine.execRdErrorAddrLo n s
  | .wrErrorAddrLo n val => Sys2Proof.Machine.execWrErrorAddrLo n val s
  | .rdErrorAddrHi n => Sys2Proof.Machine.execRdErrorAddrHi n s
  | .wrErrorAddrHi n val => Sys2Proof.Machine.execWrErrorAddrHi n val s
  | .rdConfig n => Sys2Proof.Machine.execRdConfig n s
  | .wrConfig n val => Sys2Proof.Machine.execWrConfig n val s
  | .rdSidRemap n w => Sys2Proof.Machine.execRdSidRemap n w s
  | .wrSidRemap n w val => Sys2Proof.Machine.execWrSidRemap n w val s
  | .rdTcr n p => Sys2Proof.Machine.execRdTcr n p s
  | .wrTcr n p val => Sys2Proof.Machine.execWrTcr n p val s
  | .rdTtbr n p slot => Sys2Proof.Machine.execRdTtbr n p slot s
  | .wrTtbr n p slot val => Sys2Proof.Machine.execWrTtbr n p slot val s
  | .rdUnlisted n offset => Sys2Proof.Machine.execRdUnlisted n offset s
  | .wrUnlisted n offset val => Sys2Proof.Machine.execWrUnlisted n offset val s
  | .xlate n sid wantR wantW iova => Sys2Proof.Machine.execXlate n sid wantR wantW iova s
  | .invRun n => Sys2Proof.Machine.execInvRun n s
  | .reset n => Sys2Proof.Machine.execReset n s
  | .resolve n sid => Sys2Proof.Machine.execResolve n sid s
  | .walk t0 t1 t2 t3 page => Sys2Proof.Machine.execWalk t0 t1 t2 t3 page s
  | .tlbLookup n psid page => Sys2Proof.Machine.execTlbLookup n psid page s
  | .tlbInsert n psid page blockAddr perm => Sys2Proof.Machine.execTlbInsert n psid page blockAddr perm s
  | .tlbInvalidate n sidMask => Sys2Proof.Machine.execTlbInvalidate n sidMask s
  | .tlbClearAll n => Sys2Proof.Machine.execTlbClearAll n s
  | .faultLatch n bits addr psid => Sys2Proof.Machine.execFaultLatch n bits addr psid s
  | .irqEval => Sys2Proof.Machine.execIrqEval s

end Sys2Proof.Machine
end

