-- ==== Sys2Proof/Machine/Schedule.lean ====
section
/-! DEFINITION. Which agent moves next (20_memory R57, log 4): the head of `turns`, and where no turn is
left, one sequencer (30_encoding R93) that lets work in flight end before it takes the next input, and
runs a queued task when no input is left (R68). -/

namespace Sys2Proof.Machine

/-- The instance has a queued or running deferred task (10_state R27). -/
def Inst.owesTask : Inst → Bool
  | .translating t => t.pendingInval.isSome
  | .companion | .unknown => false

/-- The sequencer's turn. -/
def defaultTurn (s : State) : Turn :=
  match s.flights with
  | f :: _ => .request f.ticket
  | [] =>
    match s.insts.findIdx? Inst.running with
    | some n => .task n
    | none =>
      match s.inputs with
      | _ :: _ => .input
      | [] =>
        match s.insts.findIdx? Inst.owesTask with
        | some n => .task n
        | none => .idle

/-- The turn of the next step. -/
def nextTurn (s : State) : Turn :=
  match s.turns with
  | t :: _ => t
  | [] => defaultTurn s

/-- The state once the turn is taken off the list. -/
def State.turnTaken (s : State) : State := { s with turns := s.turns.tail }

end Sys2Proof.Machine
end

