-- ==== Sys2Proof/Machine/Fetch.lean ====
section
/-! DEFINITION. Receiving the next input: an event packet is decoded and run (30_encoding R70), a move of
the memory collaborator is made (R93, log 5). -/

namespace Sys2Proof.Machine

/-- A decoded operation on the port it arrived at: internal operations are "never received from outside"
(30_encoding R73), and the model's own port takes nothing else (log 9). -/
def acceptOn (internalPort : Bool) (i : Instr) (s : State) : Host.Outcome State Fault Refusal :=
  match internalPort, i.isInternal with
  | false, false => exec i s
  | true, true => exec i s
  | false, true => .refused .internalFromOutside
  | true, false => .refused .externalOnInternalPort

/-- A packet received on a port. -/
def receive (internalPort : Bool) (packet : List Word) (s : State) :
    Host.Outcome State Fault Refusal :=
  match decode s.params packet with
  | .error e => .refused (.undecodable e)
  | .ok i => acceptOn internalPort i s

/-- The next input is taken. -/
def takeInput (s : State) : Host.Outcome State Fault Refusal :=
  match s.inputs with
  | [] => .refused .noInput
  | .event packet :: rest => receive false packet { s with inputs := rest }
  | .internal packet :: rest => receive true packet { s with inputs := rest }
  | .mem64 pa value :: rest => .next ({ s with inputs := rest }.storeMem pa value)
  | .memFail pa :: rest => .next ({ s with inputs := rest }.failMem pa)

/-- The input that carries a packet: an internal operation goes to its own port. -/
def inputOf (P : Params) (packet : List Word) : Input :=
  match decode P packet with
  | .ok i => if i.isInternal then .internal packet else .event packet
  | .error _ => .event packet

end Sys2Proof.Machine
end

