-- ==== Sys2Proof/Machine/Step.lean ====
section
/-! DEFINITION. One step of the machine: one atomic step of one agent, or one call of a collaborator
(20_memory R57, R59, R60), chosen by the next turn. -/

namespace Sys2Proof.Machine

/-- One step. -/
def step (s : State) : Host.Outcome State Fault Refusal :=
  match nextTurn s with
  | .input => takeInput s.turnTaken
  | .request ticket => requestStep ticket s.turnTaken
  | .task n => taskStep n s.turnTaken
  | .idle => .next s.turnTaken

/-- The state whose very next step receives the operation with the bits `w` (log 17). -/
def State.withFetchWord (s : State) (nbits w : Nat) : State :=
  { s with
    inputs := inputOf s.params (tablePacket nbits w) :: s.inputs
    turns := .input :: s.turns }

end Sys2Proof.Machine
end

