-- ==== Sys2Proof/Safety.lean ====
section
/-! DEFINITION. What a safe state is, in the terms the claims use: the invariants of 10_state R36 with what
keeps them, quiescence (70 R212), a run of several steps, and which instance an operation addresses. -/

namespace Sys2Proof.Machine

/-- `k` steps, stopping at the first refusal. -/
def run : Nat → State → Host.Outcome State Fault Refusal
  | 0, s => .next s
  | k + 1, s =>
    match step s with
    | .next s' => run k s'
    | .fault r => .fault r
    | .refused r => .refused r

/-- A cached block: page-aligned and at most `PTE_ADDR_MASK` (10_state R36 e). -/
def EntryOk (z : PageSize) (e : TlbEntry) : Prop :=
  e.blockAddr &&& pageMask z = 0 ∧ e.blockAddr ≤ pteAddrMask

/-- The page index of some IOVA (10_state R28: `page < 2^(64-PAGE_SHIFT)`). -/
def PageOk (z : PageSize) (page : Quad) : Prop := page.toNat < 2 ^ (64 - pageShift z)

/-- The invariants of one Translating instance (10_state R36 a to f, R27, R34). -/
structure InstOk (P : Params) (t : Translating) : Prop where
  /-- R36 a -/
  status : t.faultStatus &&& ~~~ faultAll = 0
  /-- R36 b -/
  busy : opBusy t.tlbOp = t.pendingInval.isSome
  /-- R36 c -/
  opBits : t.tlbOp &&& ~~~ (busyField ||| opcodeField ||| setSelField P.nSets) = 0
  /-- R36 d -/
  idleOpcode : opBusy t.tlbOp = false → opOpcode t.tlbOp = 0
  /-- `N_SETS` target sets (R26) -/
  sets : t.targetSets.length = P.nSets
  /-- the cache is a map in canonical form (R28) -/
  cache : Rising tlbRank t.tlb
  /-- R36 e, and the bound of R28 -/
  entries : ∀ x ∈ t.tlb, EntryOk P.pageSize x.2 ∧ PageOk P.pageSize x.1.page
  /-- the latched mask is not zero (44 R156) -/
  mask : ∀ m, t.pendingInval = some m → m ≠ 0
  /-- a running task works on the latched mask and owes the end of its notification list
  (10_state R34, 44 R162) -/
  task : ∀ k, t.task = some k → t.pendingInval = some k.mask ∧ k.owed <:+ notifyList P k.mask

/-- What a phase of a walk may hold: level-1 bases are 4096-aligned and below 2^40, level-2 bases and blocks
are page-aligned and at most `PTE_ADDR_MASK` (20_memory R53, 40 R107). -/
def PhaseOk (z : PageSize) : Phase → Prop
  | .reading .one base => base &&& 0xFFF = 0 ∧ base.toNat < 2 ^ 40
  | .reading .two base => base &&& pageMask z = 0 ∧ base ≤ pteAddrMask
  | .done (.ok e) => EntryOk z e
  | .done (.fault _) => True

/-- Instance `n` is a Translating one. -/
def State.translatingAt (s : State) (n : Nat) : Prop := ∃ t, s.insts[n]? = some (.translating t)

/-- The invariants of one walk in flight (10_state R33). -/
structure FlightOk (s : State) (f : Flight) : Prop where
  phase : PhaseOk s.params.pageSize f.phase
  issued : f.ticket < s.nextTicket
  request : ∀ r, f.purpose = .request r →
    f.page = pageOf s.params.pageSize r.iova ∧ s.translatingAt r.inst

/-- An input that the outside can offer: not on the model's own port for internal operations (log 9). -/
def Input.fromOutside : Input → Bool
  | .event _ | .mem64 _ _ | .memFail _ => true
  | .internal _ => false

/-- The invariant of the whole machine. -/
structure Inv (s : State) : Prop where
  params : s.params.wf
  insts : ∀ (n : Nat) (t : Translating), s.insts[n]? = some (.translating t) → InstOk s.params t
  flights : ∀ f ∈ s.flights, FlightOk s f
  tickets : (s.flights.map Flight.ticket).Nodup
  memory : s.mem.wf
  holes : s.holes.Pairwise (· < ·) ∧ ∀ a ∈ s.holes, a < 2 ^ 64
  /-- at most one deferred task between its steps (44 R165, 70 R213) -/
  loop : ∀ (n m : Nat) (i j : Inst), s.insts[n]? = some i → s.insts[m]? = some j →
    i.running = true → j.running = true → n = m
  outside : ∀ x ∈ s.inputs, x.fromOutside = true

/-- No request in flight and no invalidation owed (70 R212). -/
def State.quiescent (s : State) : Prop :=
  s.flights = [] ∧
    ∀ (n : Nat) (t : Translating), s.insts[n]? = some (.translating t) → t.pendingInval = none

/-- Instance `n` is Busy: an accepted invalidation has not completed (44 R151). -/
def State.busyAt (s : State) (n : Nat) : Prop :=
  ∃ t, s.insts[n]? = some (.translating t) ∧ opBusy t.tlbOp = true

/-- The kind of an instance (10_state R17). -/
def Inst.isTranslating : Inst → Bool
  | .translating _ => true
  | .companion | .unknown => false

/-- The entries two caches share: every one of the first is in the second. -/
def CacheKeeps (c c' : Tlb) : Prop :=
  ∀ p page e, tlbFind c p page = some e → tlbFind c' p page = some e

end Sys2Proof.Machine

namespace Sys2Proof

/-- The instance an operation addresses. -/
def Instr.target : Instr → Option Nat
  | .rdParams n | .wrParams n _ | .rdTlbOp n | .wrTlbOp n _ | .rdTargetSetLo n _
  | .wrTargetSetLo n _ _ | .rdTargetSetHi n _ | .wrTargetSetHi n _ _ | .rdErrorStatus n
  | .wrErrorStatus n _ | .rdErrorAddrLo n | .wrErrorAddrLo n _ | .rdErrorAddrHi n
  | .wrErrorAddrHi n _ | .rdConfig n | .wrConfig n _ | .rdSidRemap n _ | .wrSidRemap n _ _
  | .rdTcr n _ | .wrTcr n _ _ | .rdTtbr n _ _ | .wrTtbr n _ _ _ | .rdUnlisted n _
  | .wrUnlisted n _ _ | .xlate n _ _ _ _ | .invRun n | .reset n | .resolve n _
  | .tlbLookup n _ _ | .tlbInsert n _ _ _ _ | .tlbInvalidate n _ | .tlbClearAll n
  | .faultLatch n _ _ _ => some n
  | .walk _ _ _ _ _ | .irqEval => none

end Sys2Proof
end

