-- ==== Sys2Proof/Certificates/Slice0/Obligations.lean ====
section
/-! DEFINITION. The statements for the provers. `s.insts[n]? = some (.translating t)` says that instance
`n` is a Translating one with state `t`; a next state written as `s` with some fields replaced is the
frame as well: everything else of the machine is unchanged, physical memory included. -/

open Sys2Proof Sys2Proof.Machine

/-! ## Encoding -/

/-- 30_encoding R70 to R74: the packet of every operation the layout can spell decodes to that operation, at
every value of every operand. How a packet holds the operands (R70 gives a descriptor no operand bits) is the
model's choice (log 3, DESIGN CHOICE). -/
def Obligations.EncodeThenDecode : Prop :=
  ∀ (P : Params) (i : Instr), P.wf → i.wellFormed P = true → decode P (encode P i) = .ok i

/-- A packet that decodes is the packet of the operation it decodes to, bit for bit, and that operation is
well-formed: no bit is ignored. For the descriptor this is 30_encoding R70 to R74 and R91; for the operand words
(their number, their order, zero bits above a 2- or 4-bit operand) it is the model's choice (log 3, DESIGN
CHOICE). -/
def Obligations.DecodeThenEncode : Prop :=
  ∀ (P : Params) (packet : List Word) (i : Instr), decode P packet = .ok i →
    encode P i = packet ∧ i.wellFormed P = true

/-- 30_encoding R73 (last sentence), R91 a, b, 20_memory R52: a descriptor with a reserved class, a reserved
sub-code or a non-zero must-be-zero bit, and a bus event whose offset is not 4-aligned or not inside the window,
spell no operation, whatever the operands. -/
def Obligations.UnspelledEventRefused : Prop :=
  ∀ (P : Params) (d : BitVec 20) (ops : List Word),
    (d.extractLsb' 17 3 = 4 ∨ d.extractLsb' 17 3 = 5 ∨ d.extractLsb' 17 3 = 6 ∨
      (d.extractLsb' 17 3 = 0 ∧
        (d.extractLsb' 0 2 ≠ 0 ∨ P.windowSize ≤ (d.extractLsb' 0 16).toNat)) ∨
      (d.extractLsb' 17 3 = 1 ∧ d.extractLsb' 6 11 ≠ 0) ∨
      (d.extractLsb' 17 3 = 2 ∧ d.extractLsb' 0 17 ≠ 0) ∨
      (d.extractLsb' 17 3 = 3 ∧ d.extractLsb' 0 17 ≠ 0) ∨
      (d.extractLsb' 17 3 = 7 ∧ (d.extractLsb' 4 13 ≠ 0 ∨ 8 ≤ (d.extractLsb' 0 4).toNat))) →
    ∃ e, decode P (d.setWidth 32 :: ops) = .error e

/-- The descriptors the spec's programs write out (95 P1 to P5), and one of each other class. The operand words
after them (the instance in a word of its own, a 64-bit IOVA low half first) are the model's choice (log 3,
DESIGN CHOICE). -/
def Obligations.WrittenDescriptorsDecode : Prop :=
  decode Params.default [0x10200, 0, 0x80000100] = .ok (.wrTtbr 0 0 0 0x80000100) ∧
  decode Params.default [0x10228, 0, 0x80000400] = .ok (.wrTtbr 0 2 2 0x80000400) ∧
  decode Params.default [0x10108, 0, 0x80] = .ok (.wrTcr 0 2 0x80) ∧
  decode Params.default [0x10084, 0, 0x07060204] = .ok (.wrSidRemap 0 1 0x07060204) ∧
  decode Params.default [0x10020, 0, 0x00100100] = .ok (.wrTlbOp 0 0x00100100) ∧
  decode Params.default [0x10034, 0, 2] = .ok (.wrTargetSetLo 0 0 2) ∧
  decode Params.default [0x00054, 0] = .ok (.rdErrorAddrHi 0) ∧
  decode Params.default [0x20015, 0, 0x5C3F9ABC, 0x2A] = .ok (.xlate 0 5 true false 0x2A5C3F9ABC) ∧
  decode Params.default [0x20025, 0, 0x5C3F9ABC, 0x2A] = .ok (.xlate 0 5 false true 0x2A5C3F9ABC) ∧
  decode Params.default [0x40000, 0] = .ok (.invRun 0) ∧
  decode Params.default [0x60000, 0] = .ok (.reset 0) ∧
  decode Params.default [0xE0005, 0] = .ok (.tlbClearAll 0)

/-! ## The step -/

/-- A step whose turn takes an input that decodes runs the decoded operation, in the state with the turn and
the input taken; an internal operation is refused on the outside port (30_encoding R73: internal operations are
never received from outside). The model's choices here (DESIGN CHOICE): that an internal operation can be run by
itself, on a port of its own (log 9), and the lists of turns (log 4) and of inputs (log 17). -/
def Obligations.StepRunsDecodedOperation : Prop :=
  ∀ (s : State) (packet : List Word) (rest : List Input) (i : Instr),
    nextTurn s = .input → decode s.params packet = .ok i →
    (i.isInternal = false → s.inputs = .event packet :: rest →
      step s = exec i { s with turns := s.turns.tail, inputs := rest }) ∧
    (i.isInternal = true → s.inputs = .internal packet :: rest →
      step s = exec i { s with turns := s.turns.tail, inputs := rest }) ∧
    (i.isInternal = true → s.inputs = .event packet :: rest →
      step s = .refused .internalFromOutside)

/-- 10_state R17, 42 R130 (decision D38): every operation that addresses a Companion or Unknown instance is
refused. That an operation on an instance number the controller does not have is refused as well, under a name
of its own, is the model's choice (log 19, DESIGN CHOICE). -/
def Obligations.NonTranslatingRefused : Prop :=
  ∀ (i : Instr) (s : State) (n : Nat), i.target = some n →
    ((s.insts[n]? = some .companion ∨ s.insts[n]? = some .unknown) →
      exec i s = .refused (.notTranslating n)) ∧
    (s.insts[n]? = none → exec i s = .refused (.noInstance n))

/-! ## Configuration registers -/

/-- 42 R120, R132, 60 R179, R181 (the spec's decisions D2, D11, D30): these writes are accepted and change
nothing. -/
def Obligations.IgnoredWritesChangeNothing : Prop :=
  ∀ (s : State) (n : Nat) (t : Translating) (o : BitVec 16) (v : Word),
    s.insts[n]? = some (.translating t) →
    exec (.wrParams n v) s = .next s ∧ exec (.wrUnlisted n o v) s = .next s ∧
    exec (.wrErrorAddrLo n v) s = .next s ∧ exec (.wrErrorAddrHi n v) s = .next s

/-- 42 R131: a read of an unlisted offset returns some word and changes nothing the spec names; the counter
of the free value moves (log 7, the model's own field). -/
def Obligations.RdUnlistedCompletes : Prop :=
  ∀ (s : State) (n : Nat) (t : Translating) (o : BitVec 16),
    s.insts[n]? = some (.translating t) →
    ∃ v, exec (.rdUnlisted n o) s = .next { s with
      history := .readValue n v :: s.history, freeCount := s.freeCount + 1 }

/-- 42 R121: byte `j` of the word read is the whole remap byte of logical SID `4w + j`. -/
def Obligations.RdSidRemapReturnsFourBytes : Prop :=
  ∀ (s : State) (n : Nat) (t : Translating) (w : BitVec 2),
    s.insts[n]? = some (.translating t) →
    ∃ v, exec (.rdSidRemap n w) s = .next { s with history := .readValue n v :: s.history } ∧
      ∀ j : BitVec 2, t.remap[4 * w.toNat + j.toNat]? = some (v.extractLsb' (8 * j.toNat) 8)

/-- 42 R122: all four bytes of the word are written, and nothing else. -/
def Obligations.WrSidRemapWritesFourBytes : Prop :=
  ∀ (s : State) (n : Nat) (t : Translating) (w : BitVec 2) (v : Word),
    s.insts[n]? = some (.translating t) →
    ∃ remap, exec (.wrSidRemap n w v) s = .next { s with
        insts := s.insts.set n (.translating { t with remap := remap }) } ∧
      (∀ j : BitVec 2, remap[4 * w.toNat + j.toNat]? = some (v.extractLsb' (8 * j.toNat) 8)) ∧
      ∀ a : Nat, a / 4 ≠ w.toNat → remap[a]? = t.remap[a]?

/-- 42 R119, R123, R126, R133, 44 R152: a read returns the word of its row, slot or register, all 32 bits as
stored (for `PARAMS` the page shift in its field), and changes nothing. -/
def Obligations.RegisterReadsReturnStoredWord : Prop :=
  ∀ (s : State) (n : Nat) (t : Translating) (p : Sid) (i : BitVec 2),
    s.insts[n]? = some (.translating t) →
    (∃ v, t.tcr[p.toNat]? = some v ∧
      exec (.rdTcr n p) s = .next { s with history := .readValue n v :: s.history }) ∧
    (∃ row v, t.ttbr[p.toNat]? = some row ∧ row[i.toNat]? = some v ∧
      exec (.rdTtbr n p i) s = .next { s with history := .readValue n v :: s.history }) ∧
    exec (.rdConfig n) s = .next { s with history := .readValue n t.config :: s.history } ∧
    exec (.rdTlbOp n) s = .next { s with history := .readValue n t.tlbOp :: s.history } ∧
    exec (.rdParams n) s = .next { s with
      history := .readValue n
        (match s.params.pageSize with | .k4 => 0x0C000000 | .k16 => 0x0E000000) :: s.history }

/-- 42 R124, R127, R134 (and R128): a write stores all 32 bits in its row, slot or register and touches
nothing else, the cache and the fault record included. -/
def Obligations.ConfigurationWritesStoreWord : Prop :=
  ∀ (s : State) (n : Nat) (t : Translating) (p : Sid) (i : BitVec 2) (v : Word),
    s.insts[n]? = some (.translating t) →
    (∃ tcr, exec (.wrTcr n p v) s = .next { s with
        insts := s.insts.set n (.translating { t with tcr := tcr }) } ∧
      tcr[p.toNat]? = some v ∧ ∀ q : Nat, q ≠ p.toNat → tcr[q]? = t.tcr[q]?) ∧
    (∃ ttbr row row', exec (.wrTtbr n p i v) s = .next { s with
        insts := s.insts.set n (.translating { t with ttbr := ttbr }) } ∧
      t.ttbr[p.toNat]? = some row ∧ ttbr[p.toNat]? = some row' ∧ row'[i.toNat]? = some v ∧
      (∀ j : Nat, j ≠ i.toNat → row'[j]? = row[j]?) ∧
      ∀ q : Nat, q ≠ p.toNat → ttbr[q]? = t.ttbr[q]?) ∧
    exec (.wrConfig n v) s = .next { s with
      insts := s.insts.set n (.translating { t with config := v }) }

/-- 42 R117: the physical SID is the remap byte of the logical one, modulo 16. -/
def Obligations.ResolveMasksRemapByte : Prop :=
  ∀ (s : State) (n : Nat) (t : Translating) (sid : Sid), s.insts[n]? = some (.translating t) →
    ∃ b psid, t.remap[sid.toNat]? = some b ∧ psid.toNat = b.toNat % 16 ∧
      exec (.resolve n sid) s = .next { s with history := .resolved psid :: s.history }

/-! ## The invalidation handshake -/

/-- 44 R158 to R161: the halves of a target set are read and written apart, `BUSY` or not. -/
def Obligations.TargetSetHalvesReadAndWrite : Prop :=
  ∀ (s : State) (n k : Nat) (t : Translating) (x : Quad) (v : Word),
    s.insts[n]? = some (.translating t) → t.targetSets[k]? = some x →
    exec (.rdTargetSetLo n k) s = .next { s with
      history := .readValue n (x.extractLsb' 0 32) :: s.history } ∧
    exec (.rdTargetSetHi n k) s = .next { s with
      history := .readValue n (x.extractLsb' 32 32) :: s.history } ∧
    (∃ y : Quad, y.extractLsb' 0 32 = v ∧ y.extractLsb' 32 32 = x.extractLsb' 32 32 ∧
      exec (.wrTargetSetLo n k v) s = .next { s with
        insts := s.insts.set n
          (.translating { t with targetSets := t.targetSets.set k y }) }) ∧
    (∃ y : Quad, y.extractLsb' 0 32 = x.extractLsb' 0 32 ∧ y.extractLsb' 32 32 = v ∧
      exec (.wrTargetSetHi n k v) s = .next { s with
        insts := s.insts.set n
          (.translating { t with targetSets := t.targetSets.set k y }) })

/-- 44 R153, R155, R156 (decisions D5, D6): an Idle write with `OPCODE` = 1 and a non-zero mask is accepted. The mask is the or of
the target sets whose selector bit is 1; it is latched; `BUSY` is set; `OPCODE` and `SET_SEL` are stored. -/
def Obligations.WrTlbOpAcceptsInvalidate : Prop :=
  ∀ (s : State) (n : Nat) (t : Translating) (v : Word) (mask : Quad),
    s.insts[n]? = some (.translating t) →
    t.tlbOp.getLsbD 2 = false → v.extractLsb' 20 4 = 1 → mask ≠ 0 →
    (∀ b < 64, mask.getLsbD b = true ↔
      ∃ (k : Nat) (x : Quad), t.targetSets[k]? = some x ∧ v.getLsbD (8 + k) = true ∧ x.getLsbD b = true) →
    exec (.wrTlbOp n v) s = .next { s with insts := s.insts.set n (.translating { t with
      tlbOp := (v &&& (0x00F00000 ||| ((1#32 <<< s.params.setOffsets.length) - 1) <<< 8)) ||| 0x4
      pendingInval := some mask }) }

/-- 44 R154, R157 (decision D7): while Busy every write is ignored; while Idle, one with another opcode or with only zero
sets selected. Nothing changes at all. -/
def Obligations.WrTlbOpOtherwiseIgnored : Prop :=
  ∀ (s : State) (n : Nat) (t : Translating) (v : Word),
    s.insts[n]? = some (.translating t) →
    (t.tlbOp.getLsbD 2 = true ∨ v.extractLsb' 20 4 ≠ 1 ∨
      ∀ (k : Nat) (x : Quad), t.targetSets[k]? = some x → v.getLsbD (8 + k) = true → x = 0) →
    exec (.wrTlbOp n v) s = .next s

/-- 44 R162 T1: the entries of the mask's SIDs go, and the task owes a notification for each SID of the mask that
is present, in ascending order (decision D28, log 25, DEDUCED). -/
def Obligations.InvRunEvictsFirst : Prop :=
  ∀ (s : State) (n : Nat) (t : Translating) (mask : Quad),
    s.insts[n]? = some (.translating t) → t.pendingInval = some mask → t.task = none →
    (∀ (m : Nat) (i : Inst), m ≠ n → s.insts[m]? = some i → i.running = false) →
    ∃ (c : Tlb) (owed : List Sid),
      exec (.invRun n) s = .next { s with
        insts := s.insts.set n (.translating { t with tlb := c, task := some ⟨mask, owed⟩ }) } ∧
      (∀ x, x ∈ c ↔ x ∈ t.tlb ∧ mask.getLsbD x.1.psid.toNat = false) ∧ c.Sublist t.tlb ∧
      (∀ q : Sid, q ∈ owed ↔
        mask.getLsbD q.toNat = true ∧ s.params.sidPresent.getLsbD q.toNat = true) ∧
      owed.Pairwise (fun a b => a.toNat < b.toNat)

/-- 44 R162 T2 and T3, R163, R166, 20_memory R67 (decisions D8, D28): after T1 the task notifies the next SID
owed, of the stream's whole IOVA space; with none owed it clears `BUSY` and `OPCODE`, leaves the selector and the
target sets, and is gone. That an `INV.RUN` event received while the task is between its steps performs its next
step is the model's reading (log 11, DEDUCED). -/
def Obligations.InvRunNotifiesThenCompletes : Prop :=
  ∀ (s : State) (n : Nat) (t : Translating) (mask mask' : Quad),
    s.insts[n]? = some (.translating t) → t.pendingInval = some mask' →
    (∀ (q : Sid) (rest : List Sid), t.task = some ⟨mask, q :: rest⟩ →
      exec (.invRun n) s = .next { s with
        insts := s.insts.set n (.translating { t with task := some ⟨mask, rest⟩ })
        history := .notifyUnmap n q 0
          (match s.params.pageSize with | .k4 => 2 ^ 32 | .k16 => 2 ^ 38) :: s.history }) ∧
    (t.task = some ⟨mask, []⟩ →
      exec (.invRun n) s = .next { s with
        insts := s.insts.set n (.translating { t with
          tlbOp := t.tlbOp &&& 0xFF0FFFFB, pendingInval := none, task := none }) })

/-- 44 R162 "Enabled iff", 70 R213: `INV.RUN` is refused with no task queued, and while another instance's
task is between its steps (log 10). -/
def Obligations.InvRunRefusedWhenNotEnabled : Prop :=
  ∀ (s : State) (n : Nat) (t : Translating), s.insts[n]? = some (.translating t) →
    (t.pendingInval = none → exec (.invRun n) s = .refused (.taskNotQueued n)) ∧
    (t.pendingInval ≠ none → t.task = none →
      (∃ (m : Nat) (i : Inst), m ≠ n ∧ s.insts[m]? = some i ∧ i.running = true) →
      exec (.invRun n) s = .refused (.eventLoopBusy n))

/-- 44 R162, R163, R168: a queued invalidation that the event loop runs with no other agent acting takes T1, its
notifications and T3, and ends Idle with the entries of the mask's SIDs gone. The model's choices here: that no
other agent acts, inputs that wait included, is its default order (`turns = []`; log 4, DESIGN CHOICE); that the
notifications go out in ascending order is decision D28 (log 25, DEDUCED). -/
def Obligations.InvalidationRunsToCompletion : Prop :=
  ∀ (s : State) (n : Nat) (t : Translating) (mask : Quad),
    s.insts[n]? = some (.translating t) → t.pendingInval = some mask → t.task = none →
    (∀ (m : Nat) (i : Inst), s.insts[m]? = some i → i.running = false) →
    s.turns = [] → s.flights = [] →
    ∃ (s₀ : State) (owed : List Sid), exec (.invRun n) s = .next s₀ ∧
      (∀ q : Sid, q ∈ owed ↔
        mask.getLsbD q.toNat = true ∧ s.params.sidPresent.getLsbD q.toNat = true) ∧
      owed.Pairwise (fun a b => a.toNat < b.toNat) ∧
      run (owed.length + 1) s₀ = .next { s with
        insts := s.insts.set n (.translating { t with
          tlb := t.tlb.filter fun x => !mask.getLsbD x.1.psid.toNat
          tlbOp := t.tlbOp &&& 0xFF0FFFFB, pendingInval := none })
        history := (owed.map fun q => Output.notifyUnmap n q 0
          (match s.params.pageSize with | .k4 => 2 ^ 32 | .k16 => 2 ^ 38)).reverse ++ s.history }

/-- 44 R151, R154, R164: a step that takes an instance out of Busy is T3 of its task, all notifications done,
or receives its `RESET`; no register write does it. -/
def Obligations.BusyEndsOnlyByCompletionOrReset : Prop :=
  ∀ (s s' : State) (n : Nat), step s = .next s' → s.busyAt n → ¬ s'.busyAt n →
    (∃ (t : Translating) (mask : Quad), s.insts[n]? = some (.translating t) ∧
      t.task = some ⟨mask, []⟩ ∧ s'.insts[n]? = some (.translating (taskComplete t))) ∨
    ∃ packet rest, nextTurn s = .input ∧ s.inputs = .event packet :: rest ∧
      decode s.params packet = .ok (.reset n)

/-- 44 R151, R153: a step that takes an instance into Busy is an accepted write of its operation word: the
packet it receives is a `WR.TLB_OP` with `OPCODE` = 1, and the mask it latches is not zero. -/
def Obligations.BusyBeginsOnlyByAcceptedWrite : Prop :=
  ∀ (s s' : State) (n : Nat), step s = .next s' → ¬ s.busyAt n → s'.busyAt n →
    ∃ packet rest v mask t, nextTurn s = .input ∧ s.inputs = .event packet :: rest ∧
      decode s.params packet = .ok (.wrTlbOp n v) ∧ v.extractLsb' 20 4 = 1 ∧
      s'.insts[n]? = some (.translating t) ∧ t.pendingInval = some mask ∧ mask ≠ 0

/-! ## Faults and the interrupt -/

/-- 60 R176, R178, R180 (decisions D10, D11): `ERROR_STATUS` reads 0 while no fault is latched, else the status with the SID in bits
27..24; `ERROR_ADDR` reads the halves of the latched address, whatever the status. -/
def Obligations.FaultRecordReads : Prop :=
  ∀ (s : State) (n : Nat) (t : Translating), s.insts[n]? = some (.translating t) →
    exec (.rdErrorStatus n) s = .next { s with
      history := .readValue n
        (if t.faultStatus = 0 then 0 else t.faultStatus ||| t.faultSid.setWidth 32 <<< 24)
          :: s.history } ∧
    exec (.rdErrorAddrLo n) s = .next { s with
      history := .readValue n (t.faultAddr.extractLsb' 0 32) :: s.history } ∧
    exec (.rdErrorAddrHi n) s = .next { s with
      history := .readValue n (t.faultAddr.extractLsb' 32 32) :: s.history }

/-- 60 R177 (decision D41): the bits written as 1 are cleared; address and SID stay. -/
def Obligations.WrErrorStatusClearsWrittenBits : Prop :=
  ∀ (s : State) (n : Nat) (t : Translating) (v : Word), s.insts[n]? = some (.translating t) →
    exec (.wrErrorStatus n v) s = .next { s with
      insts := s.insts.set n
        (.translating { t with faultStatus := t.faultStatus &&& ~~~ v }) }

/-- 60 R177, R186: writing back the value read clears every bit that was set, and a kind latched between the
read and the write survives. -/
def Obligations.AcknowledgeIdiomLosesNoKind : Prop :=
  ∀ (s : State) (n : Nat) (t : Translating) (bits : Word) (addr : Quad) (q : Sid),
    s.insts[n]? = some (.translating t) → bits &&& ~~~ faultAll = 0 →
    ∃ v s₁ s₂ t₂, exec (.rdErrorStatus n) s = .next { s with
        history := .readValue n v :: s.history } ∧
      exec (.faultLatch n bits addr q) s = .next s₁ ∧
      exec (.wrErrorStatus n v) s₁ = .next s₂ ∧ s₂.insts[n]? = some (.translating t₂) ∧
      t₂.faultStatus = bits &&& ~~~ t.faultStatus

/-- 60 R174, R175: the bits accumulate, address and SID are the newest; and with a bit set the interrupt line is
then high. R174 gives `bits` as a non-zero subset of `FAULT_ALL`; that a bare `FAULT.LATCH` takes any 32-bit value
is the model's choice (log 13, DESIGN CHOICE), and so is its port (log 9). -/
def Obligations.FaultLatchAccumulates : Prop :=
  ∀ (s : State) (n : Nat) (t : Translating) (bits : Word) (addr : Quad) (q : Sid),
    s.insts[n]? = some (.translating t) →
    ∃ s', exec (.faultLatch n bits addr q) s = .next s' ∧
      s' = { s with insts := s.insts.set n (.translating { t with
        faultStatus := t.faultStatus ||| bits, faultAddr := addr, faultSid := q }) } ∧
      (bits ≠ 0 → s'.irq = true)

/-- 60 R182: the line is high iff some Translating instance has a non-zero status, and `IRQ.EVAL` answers that
level and changes nothing. -/
def Obligations.IrqIsOrOfTranslatingStatus : Prop :=
  ∀ (s : State), ∃ level, exec .irqEval s = .next { s with history := .irq level :: s.history } ∧
    (level = true ↔ ∃ (n : Nat) (t : Translating), s.insts[n]? = some (.translating t) ∧
      t.faultStatus ≠ 0)

/-- 60 R175, R177, 10_state R35: a step clears no fault bit unless it receives a `WR.ERROR_STATUS` or a `RESET`
of that instance. -/
def Obligations.FaultBitsClearedOnlyByAckOrReset : Prop :=
  ∀ (s s' : State) (n : Nat) (t t' : Translating), step s = .next s' →
    s.insts[n]? = some (.translating t) → s'.insts[n]? = some (.translating t') →
    t.faultStatus &&& ~~~ t'.faultStatus ≠ 0 →
    ∃ packet rest, nextTurn s = .input ∧ s.inputs = .event packet :: rest ∧
      (decode s.params packet = .ok (.reset n) ∨
        ∃ v, decode s.params packet = .ok (.wrErrorStatus n v))

/-- 60 R169, R171: over inputs from outside, a step that sets a fault bit of an instance is a step of a translate
request of that instance: the turn of one in flight, or the step that receives its event. -/
def Obligations.FaultsRaisedOnlyByTranslation : Prop :=
  ∀ (s s' : State) (n : Nat) (t t' : Translating), step s = .next s' →
    (∀ x ∈ s.inputs, x.fromOutside = true) →
    s.insts[n]? = some (.translating t) → s'.insts[n]? = some (.translating t') →
    t'.faultStatus &&& ~~~ t.faultStatus ≠ 0 →
    (∃ f r, f ∈ s.flights ∧ nextTurn s = .request f.ticket ∧ f.purpose = .request r ∧ r.inst = n) ∨
    ∃ packet rest q r w iova, nextTurn s = .input ∧ s.inputs = .event packet :: rest ∧
      decode s.params packet = .ok (.xlate n q r w iova)

/-! ## The cache -/

/-- 41 R109: a lookup answers the entry of its key, and nothing else. -/
def Obligations.TlbLookupAnswersKey : Prop :=
  ∀ (s : State) (n : Nat) (t : Translating) (q : Sid) (page : Quad),
    s.insts[n]? = some (.translating t) → Rising tlbRank t.tlb →
    ∃ r, exec (.tlbLookup n q page) s = .next { s with history := .lookup r :: s.history } ∧
      ∀ e, r = some e ↔ (⟨q, page⟩, e) ∈ t.tlb

/-- 41 R110: an insert sets the entry of its key, keeps every other and the canonical form. -/
def Obligations.TlbInsertSetsKey : Prop :=
  ∀ (s : State) (n : Nat) (t : Translating) (q : Sid) (page block : Quad) (perm : Perm),
    s.insts[n]? = some (.translating t) → Rising tlbRank t.tlb →
    ∃ c : Tlb, exec (.tlbInsert n q page block perm) s = .next { s with
        insts := s.insts.set n (.translating { t with tlb := c }) } ∧
      Rising tlbRank c ∧
      ∀ x, x ∈ c ↔ x = (⟨q, page⟩, ⟨block, perm⟩) ∨ (x.1 ≠ ⟨q, page⟩ ∧ x ∈ t.tlb)

/-- 41 R111, R112: an invalidate removes exactly the entries whose SID bit is set; a clear removes all. -/
def Obligations.TlbInvalidateRemovesSids : Prop :=
  ∀ (s : State) (n : Nat) (t : Translating) (mask : Quad), s.insts[n]? = some (.translating t) →
    (∃ c : Tlb, exec (.tlbInvalidate n mask) s = .next { s with
        insts := s.insts.set n (.translating { t with tlb := c }) } ∧ c.Sublist t.tlb ∧
      ∀ x, x ∈ c ↔ x ∈ t.tlb ∧ mask.getLsbD x.1.psid.toNat = false) ∧
    exec (.tlbClearAll n) s = .next { s with
      insts := s.insts.set n (.translating { t with tlb := [] }) }

/-- 44 R167 (decision D39): mask bits 16 to 63 match no entry and notify no one. -/
def Obligations.HighMaskBitsNameNothing : Prop :=
  ∀ (P : Params) (c : Tlb) (mask : Quad), mask.extractLsb' 0 16 = 0 →
    tlbEvict c mask = c ∧ notifyList P mask = []

/-- 41 R108, R113, R115, 42 R128: over inputs from outside, an entry disappears or changes only in T1 of its
instance's task, for a SID of the mask, or in the step that receives its `RESET`. -/
def Obligations.EntriesLeaveOnlyByInvalidation : Prop :=
  ∀ (s s' : State) (n : Nat) (t t' : Translating) (q : Sid) (page : Quad) (e : TlbEntry),
    step s = .next s' → (∀ x ∈ s.inputs, x.fromOutside = true) →
    s.insts[n]? = some (.translating t) → s'.insts[n]? = some (.translating t') →
    tlbFind t.tlb q page = some e → tlbFind t'.tlb q page ≠ some e →
    (∃ mask, t.pendingInval = some mask ∧ t.task = none ∧ mask.getLsbD q.toNat = true ∧
      t'.task.isSome = true) ∨
    ∃ packet rest, nextTurn s = .input ∧ s.inputs = .event packet :: rest ∧
      decode s.params packet = .ok (.reset n)

/-! ## The walk -/

/-- 40 R98, R99: `WALK` selects a slot by the top field of the page index; an invalid slot answers
`TTBR_INVALID` with no read; a valid one starts a walk from its base. That a `WALK` issued by itself then goes on
as a flight of purpose `bareWalk`, with a ticket, is the model's choice (log 9, DESIGN CHOICE). -/
def Obligations.WalkStartsAtSelectedSlot : Prop :=
  ∀ (s : State) (t0 t1 t2 t3 w : Word) (page : Quad),
    (match s.params.pageSize with
      | .k4 => [t0, t1, t2, t3][page.toNat / 2 ^ 18 % 4]? = some w
      | .k16 => [t0, t1, t2, t3][page.toNat / 2 ^ 22 % 4]? = some w) →
    (w.getLsbD 31 = false → exec (.walk t0 t1 t2 t3 page) s = .next { s with
      nextTicket := s.nextTicket + 1
      history := .walk s.nextTicket (.fault .ttbrInvalid) :: s.history }) ∧
    (w.getLsbD 31 = true → exec (.walk t0 t1 t2 t3 page) s = .next { s with
      nextTicket := s.nextTicket + 1
      flights := s.flights ++ [⟨s.nextTicket, .bareWalk, page, w,
        .reading .one (BitVec.ofNat 64 (w.toNat % 2 ^ 28 * 4096))⟩] })

/-- 40 R100 to R103: a turn of a walk that is to read a level is one `read_physical` at base + 8 * index; a
failed read ends it in `LEVEL_READ_ERROR`, a clear valid bit in `PTE_INVALID`; else the masked address is
followed at level 1, and at level 2 is the block, with the permission of the inhibit bits. -/
def Obligations.WalkTurnReadsOneLevel : Prop :=
  ∀ (s : State) (f : Flight) (level : Level) (base a : Quad) (phase : Phase),
    nextTurn s = .request f.ticket → f ∈ s.flights →
    (s.flights.map Flight.ticket).Nodup → f.phase = .reading level base →
    a = base + 8 * BitVec.ofNat 64 (match s.params.pageSize, level with
      | .k4, .one => f.page.toNat / 2 ^ 9 % 512
      | .k4, .two => f.page.toNat % 512
      | .k16, .one => f.page.toNat / 2 ^ 11 % 2048
      | .k16, .two => f.page.toNat % 2048) →
    (match readPhysical s.mem s.holes a with
      | none => phase = .done (.fault .levelReadError)
      | some bytes =>
        if (le64 bytes).getLsbD 0 = false then phase = .done (.fault .pteInvalid)
        else
          ∃ target : Quad,
            target = le64 bytes &&& 0x0000000FFFFFF000 &&&
              (match s.params.pageSize with
                | .k4 => 0xFFFFFFFFFFFFF000
                | .k16 => 0xFFFFFFFFFFFFC000) ∧
            match level with
            | .one => phase = .reading .two target
            | .two => ∃ perm : Perm, phase = .done (.ok ⟨target, perm⟩) ∧
                perm.getLsbD 0 = !(le64 bytes).getLsbD 8 ∧
                perm.getLsbD 1 = !(le64 bytes).getLsbD 7) →
    step s = .next { s with
      turns := s.turns.tail
      flights := s.flights.map fun g => if g = f then { f with phase := phase } else g
      history := .readPhysical a (readPhysical s.mem s.holes a) :: s.history }

/-- 40 R107: no entry address wraps, at either level, from any TTBR word and any entry. -/
def Obligations.WalkAddressesNeverWrap : Prop :=
  ∀ (z : PageSize) (t : Word) (pte page : Quad),
    (entryAddr (ttbrBase t) (levelIndex z .one page)).toNat
        = (ttbrBase t).toNat + 8 * (levelIndex z .one page).toNat ∧
    (ttbrBase t).toNat + 8 * (levelIndex z .one page).toNat < 2 ^ 40 + 2 ^ 14 ∧
    (entryAddr (pteAddr z pte) (levelIndex z .two page)).toNat
        = (pteAddr z pte).toNat + 8 * (levelIndex z .two page).toNat ∧
    (pteAddr z pte).toNat + 8 * (levelIndex z .two page).toNat < 2 ^ 36 + 2 ^ 14

/-- 40 R106 a: the walk ignores page-index bits above the level-0 field. -/
def Obligations.WalkIgnoresHighPageBits : Prop :=
  ∀ (z : PageSize) (read : Quad → Option Bytes8) (t0 t1 t2 t3 : Word) (page page' : Quad),
    (∀ b < vaBits z - pageShift z, page.getLsbD b = page'.getLsbD b) →
    walkFrom z read (selectTtbr z t0 t1 t2 t3 page) page
      = walkFrom z read (selectTtbr z t0 t1 t2 t3 page') page'

/-- 20_memory R50, R66, 30_encoding R93 `MEM64`, `MEMFAIL`: eight bytes stored are read back as the same 64-bit
value, least significant byte first; a read that needs a byte made to fail fails; every other byte, and every read
of other bytes, is as before; and a step that takes such an input makes this move and no other. How the
collaborator answers is the model's choice: from bytes stored, readable again once stored, a read failing when one
of its bytes does (log 5), wrapping at the top of memory (log 6; both DESIGN CHOICE). -/
def Obligations.StoredEntryReadsBack : Prop :=
  ∀ (s : State) (a v : Quad),
    (∃ bytes : Bytes8, readPhysical (s.storeMem a v).mem (s.storeMem a v).holes a = some bytes ∧
      le64 bytes = v ∧ bytes[0] = v.setWidth 8) ∧
    (∀ c : Nat, (∀ j < 8, c ≠ (a + BitVec.ofNat 64 j).toNat) →
      (s.storeMem a v).mem.read c = s.mem.read c ∧
      (c ∈ (s.storeMem a v).holes ↔ c ∈ s.holes) ∧ (c ∈ (s.failMem a).holes ↔ c ∈ s.holes)) ∧
    (s.failMem a).mem = s.mem ∧
    (∀ b : Quad,
      ((∃ i < 8, ∃ j < 8, b + BitVec.ofNat 64 i = a + BitVec.ofNat 64 j) →
        readPhysical (s.failMem a).mem (s.failMem a).holes b = none) ∧
      ((∀ i < 8, ∀ j < 8, b + BitVec.ofNat 64 i ≠ a + BitVec.ofNat 64 j) →
        readPhysical (s.storeMem a v).mem (s.storeMem a v).holes b = readPhysical s.mem s.holes b ∧
        readPhysical (s.failMem a).mem (s.failMem a).holes b = readPhysical s.mem s.holes b)) ∧
    ∀ rest : List Input, nextTurn s = .input →
      (s.inputs = .mem64 a v :: rest → step s = .next { s with
        turns := s.turns.tail, inputs := rest
        mem := (s.storeMem a v).mem, holes := (s.storeMem a v).holes }) ∧
      (s.inputs = .memFail a :: rest → step s = .next { s with
        turns := s.turns.tail, inputs := rest, holes := (s.failMem a).holes })

/-! ## XLATE -/

/-- 43 R139, R140: a bypassed request returns no permission and no address; no lookup, no read, no fault, and
the instance is as before. Premise, as 93 U1 asks a claim to name: that bypass grants nothing, the spec's normative
reading (log 18). -/
def Obligations.BypassedXlateGrantsNothing : Prop :=
  ∀ (s : State) (n : Nat) (t : Translating) (q p : Sid) (r w : Bool) (iova : Quad) (b : Byte)
    (c : Word),
    s.insts[n]? = some (.translating t) → s.params.sidPresent.getLsbD q.toNat = true →
    t.remap[q.toNat]? = some b → p = b.setWidth 4 → t.tcr[p.toNat]? = some c →
    (s.params.bypassMask.getLsbD p.toNat = true ∨ c.getLsbD 7 = false ∨ c.getLsbD 8 = true) →
    exec (.xlate n q r w iova) s = .next { s with
      nextTicket := s.nextTicket + 1
      history := .xlate s.nextTicket ⟨none, 0, pageMask s.params.pageSize⟩ :: s.history }

/-- 43 R141, R145 (decision D22): a hit reads no memory and returns the entry's own block and permission; a direction the
permission lacks is latched, with the whole IOVA and the physical SID, and does not block. -/
def Obligations.XlateHitAnnotates : Prop :=
  ∀ (s : State) (n : Nat) (t : Translating) (q p : Sid) (r w : Bool) (iova : Quad) (b : Byte)
    (c : Word) (e : TlbEntry) (bits : Word),
    s.insts[n]? = some (.translating t) → s.params.sidPresent.getLsbD q.toNat = true →
    t.remap[q.toNat]? = some b → p = b.setWidth 4 → t.tcr[p.toNat]? = some c →
    s.params.bypassMask.getLsbD p.toNat = false → c.getLsbD 7 = true → c.getLsbD 8 = false →
    tlbFind t.tlb p (iova >>> (match s.params.pageSize with | .k4 => 12 | .k16 => 14)) = some e →
    bits = (if w = true ∧ e.perm.getLsbD 1 = false then 0x08 else 0) |||
      (if r = true ∧ e.perm.getLsbD 0 = false then 0x10 else 0) →
    exec (.xlate n q r w iova) s = .next { s with
      nextTicket := s.nextTicket + 1
      insts := if bits = 0 then s.insts else s.insts.set n (.translating { t with
        faultStatus := t.faultStatus ||| bits, faultAddr := iova, faultSid := p })
      history := .xlate s.nextTicket ⟨some e.blockAddr, e.perm, pageMask s.params.pageSize⟩
        :: s.history }

/-- 43 R142, R144 (decision D27): a miss on a slot that is not valid latches `TTBR_INVALID` in the same step, and returns no
permission; a miss on a valid slot snapshots its word and goes on as a walk from its base. -/
def Obligations.XlateMissStartsWalk : Prop :=
  ∀ (s : State) (n : Nat) (t : Translating) (q p : Sid) (r w : Bool) (iova : Quad) (b : Byte)
    (c : Word) (row : Vector Word 4) (word : Word),
    s.insts[n]? = some (.translating t) → s.params.sidPresent.getLsbD q.toNat = true →
    t.remap[q.toNat]? = some b → p = b.setWidth 4 → t.tcr[p.toNat]? = some c →
    s.params.bypassMask.getLsbD p.toNat = false → c.getLsbD 7 = true → c.getLsbD 8 = false →
    tlbFind t.tlb p (iova >>> (match s.params.pageSize with | .k4 => 12 | .k16 => 14)) = none →
    t.ttbr[p.toNat]? = some row →
    row[iova.toNat / (match s.params.pageSize with | .k4 => 2 ^ 30 | .k16 => 2 ^ 36) % 4]?
      = some word →
    (word.getLsbD 31 = false → exec (.xlate n q r w iova) s = .next { s with
      nextTicket := s.nextTicket + 1
      insts := s.insts.set n (.translating { t with
        faultStatus := t.faultStatus ||| 0x01, faultAddr := iova, faultSid := p })
      history := .xlate s.nextTicket ⟨none, 0, pageMask s.params.pageSize⟩ :: s.history }) ∧
    (word.getLsbD 31 = true → exec (.xlate n q r w iova) s = .next { s with
      nextTicket := s.nextTicket + 1
      flights := s.flights ++ [⟨s.nextTicket, .request ⟨n, q, iova, r, w, p⟩,
        iova >>> (match s.params.pageSize with | .k4 => 12 | .k16 => 14), word,
        .reading .one (BitVec.ofNat 64 (word.toNat % 2 ^ 28 * 4096))⟩] })

/-- 43 R149 b (decision D29): a request of a SID that is not present is refused. The model's own choice, by the number of target
sets the layout has (00_scope R9, log 19): an access to a target set beyond them is refused by name (no packet
decodes to one, `Obligations.DecodeThenEncode`). -/
def Obligations.AbsentPortOrSetRefused : Prop :=
  ∀ (s : State) (n k : Nat) (t : Translating) (v : Word) (q : Sid) (r w : Bool) (iova : Quad),
    s.insts[n]? = some (.translating t) →
    (s.params.sidPresent.getLsbD q.toNat = false →
      exec (.xlate n q r w iova) s = .refused (.absentSid q)) ∧
    (t.targetSets[k]? = none →
      exec (.rdTargetSetLo n k) s = .refused (.noTargetSet k) ∧
      exec (.rdTargetSetHi n k) s = .refused (.noTargetSet k) ∧
      exec (.wrTargetSetLo n k v) s = .refused (.noTargetSet k) ∧
      exec (.wrTargetSetHi n k v) s = .refused (.noTargetSet k))

/-- 43 R143 to R146, section S2 (decisions D23, D26, D27): a failed walk latches its one kind and inserts nothing; a successful one uses
the entry another request inserted meanwhile, or inserts its own; configuration is not read again, so the
outcome is the same whatever `remap`, `tcr` and `ttbr` hold by then. -/
def Obligations.RequestEndsInSectionTwo : Prop :=
  ∀ (s : State) (f : Flight) (r : Request) (w : WalkResult) (t : Translating),
    nextTurn s = .request f.ticket → f ∈ s.flights →
    (s.flights.map Flight.ticket).Nodup → f.purpose = .request r → f.phase = .done w →
    s.insts[r.inst]? = some (.translating t) →
    f.page = r.iova >>> (match s.params.pageSize with | .k4 => 12 | .k16 => 14) →
    ∃ t' res, step s = .next { s with
        turns := s.turns.tail
        flights := s.flights.filter fun g => decide (g ≠ f)
        insts := s.insts.set r.inst (.translating t')
        history := .xlate f.ticket res :: s.history } ∧
      match w with
      | .fault k =>
        t' = { t with
          faultStatus := t.faultStatus |||
            (match k with | .ttbrInvalid => 0x01 | .levelReadError => 0x02 | .pteInvalid => 0x04)
          faultAddr := r.iova
          faultSid := r.psid } ∧
        res = ⟨none, 0, pageMask s.params.pageSize⟩
      | .ok new =>
        ∃ (used : TlbEntry) (bits : Word),
          (match tlbFind t.tlb r.psid f.page with | some e => used = e | none => used = new) ∧
          bits = (if r.wantW = true ∧ used.perm.getLsbD 1 = false then (0x08 : Word) else 0) |||
            (if r.wantR = true ∧ used.perm.getLsbD 0 = false then 0x10 else 0) ∧
          res = ⟨some used.blockAddr, used.perm, pageMask s.params.pageSize⟩ ∧
          tlbFind t'.tlb r.psid f.page = some used ∧
          (∀ q page, (q, page) ≠ (r.psid, f.page) → tlbFind t'.tlb q page = tlbFind t.tlb q page) ∧
          t' = { t with
            tlb := t'.tlb
            faultStatus := t.faultStatus ||| bits
            faultAddr := if bits = 0 then t.faultAddr else r.iova
            faultSid := if bits = 0 then t.faultSid else r.psid }

/-- 43 R146, 20_memory R59, 40 R105: with no other agent acting between its sections, an `XLATE` event and the
steps that follow it do to the instance, and return, what the pseudocode says against the memory of the state; they
read memory at most twice, change nothing else, and leave nothing in flight. That no other agent acts, inputs that
wait included, is the model's default order (`turns = []`; log 4, DESIGN CHOICE). -/
def Obligations.XlateRunsAsItsPseudocode : Prop :=
  ∀ (s : State) (n : Nat) (t : Translating) (q : Sid) (r w : Bool) (iova : Quad),
    s.insts[n]? = some (.translating t) → s.params.sidPresent.getLsbD q.toNat = true →
    s.turns = [] → s.flights = [] →
    ∃ s₀ k reads, exec (.xlate n q r w iova) s = .next s₀ ∧ k ≤ 3 ∧
      reads.length ≤ 2 ∧ (∀ o ∈ reads, ∃ a, o = Output.readPhysical a (readPhysical s.mem s.holes a)) ∧
      run k s₀ = .next { s with
        nextTicket := s.nextTicket + 1
        insts := s.insts.set n (.translating (xlateAlone s.params (readPhysical s.mem s.holes) t
          ⟨n, q, iova, r, w, resolveSid t.remap q⟩).1)
        history := .xlate s.nextTicket (xlateAlone s.params (readPhysical s.mem s.holes) t
          ⟨n, q, iova, r, w, resolveSid t.remap q⟩).2 :: (reads ++ s.history) }

/-- 41 R116, 40 R104: after a request alone has left an entry, the same request again is served from the
cache: one step, no read, the same block and permission, the cache as it was. -/
def Obligations.SecondRequestServedFromCache : Prop :=
  ∀ (s : State) (n : Nat) (t u : Translating) (req : Request) (res : XlateResult) (block : Quad),
    s.insts[n]? = some (.translating u) → s.params.sidPresent.getLsbD req.sid.toNat = true →
    req.inst = n → req.psid = resolveSid t.remap req.sid →
    xlateAlone s.params (readPhysical s.mem s.holes) t req = (u, res) → res.translated = some block →
    ∃ s', exec (.xlate n req.sid req.wantR req.wantW req.iova) s = .next s' ∧
      s'.flights = s.flights ∧ s'.history = .xlate s.nextTicket res :: s.history ∧
      ∃ u', s'.insts = s.insts.set n (.translating u') ∧ u'.tlb = u.tlb

/-- 20_memory R69, 41 R116, 44 R168: right after T1 a request whose SID the mask names does not hit: it is
bypassed (and then granted nothing, the premise of 93 U1, log 18), faults at level 0, or reads the
tables again. -/
def Obligations.EvictedStreamWalksAgain : Prop :=
  ∀ (P : Params) (t : Translating) (mask : Quad) (r : Request),
    mask.getLsbD r.psid.toNat = true →
    (bypassApplies P t r.psid = true → xlateS1 P (taskEvict P t mask) r
      = .finished (taskEvict P t mask) ⟨none, 0, pageMask P.pageSize⟩) ∧
    (bypassApplies P t r.psid = false →
      (∃ word base, xlateS1 P (taskEvict P t mask) r = .walking word .one base) ∨
      ∃ u, xlateS1 P (taskEvict P t mask) r = .finished u ⟨none, 0, pageMask P.pageSize⟩ ∧
        u.faultStatus = t.faultStatus ||| 0x01)

/-- 20_memory R62, 43 R150 c: the race that is allowed. A request whose walk has ended may insert after T1 of an
invalidation that names its SID: the two turns, in that order (a list of turns is log 4, DESIGN CHOICE), leave its
entry in the cache. -/
def Obligations.LateInsertSurvivesInvalidation : Prop :=
  ∀ (s : State) (n : Nat) (t : Translating) (mask : Quad) (f : Flight) (r : Request)
    (new : TlbEntry),
    s.insts[n]? = some (.translating t) → t.pendingInval = some mask → t.task = none →
    (∀ (m : Nat) (i : Inst), s.insts[m]? = some i → i.running = false) →
    s.flights = [f] → f.purpose = .request r → f.phase = .done (.ok new) → r.inst = n →
    mask.getLsbD r.psid.toNat = true → s.turns = [.task n, .request f.ticket] →
    ∃ s' u, run 2 s = .next s' ∧ s'.insts[n]? = some (.translating u) ∧
      tlbFind u.tlb r.psid (pageOf s.params.pageSize r.iova) = some new

/-- 42 R118, R135, 43 R138, R150 g: two instances that agree on the row of the physical SID, on that SID's
entries and on the fault record give a request the same answer and the same fault record: no other row, and no
row reached by a second remap, plays a part. -/
def Obligations.XlateUsesOnlyItsPhysicalRow : Prop :=
  ∀ (P : Params) (read : Quad → Option Bytes8) (t u : Translating) (r : Request),
    t.tcr[r.psid.toNat]? = u.tcr[r.psid.toNat]? → t.ttbr[r.psid.toNat]? = u.ttbr[r.psid.toNat]? →
    (∀ page, tlbFind t.tlb r.psid page = tlbFind u.tlb r.psid page) →
    t.faultStatus = u.faultStatus → t.faultAddr = u.faultAddr → t.faultSid = u.faultSid →
    (xlateAlone P read t r).2 = (xlateAlone P read u r).2 ∧
    (xlateAlone P read t r).1.faultStatus = (xlateAlone P read u r).1.faultStatus ∧
    (xlateAlone P read t r).1.faultAddr = (xlateAlone P read u r).1.faultAddr ∧
    (xlateAlone P read t r).1.faultSid = (xlateAlone P read u r).1.faultSid ∧
    ∀ page, tlbFind (xlateAlone P read t r).1.tlb r.psid page
      = tlbFind (xlateAlone P read u r).1.tlb r.psid page

/-- 43 R148: the step that receives an `XLATE`, and every later step of a request, writes the cache and the
fault record only: no configuration, no invalidation state, no memory; it removes no entry and clears no fault
bit. -/
def Obligations.TranslationWritesOnlyCacheAndFaults : Prop :=
  ∀ (s s' : State) (n : Nat) (t t' : Translating),
    ((∃ m q r w iova, exec (.xlate m q r w iova) s = .next s') ∨
      ∃ k, requestStep k s = .next s') →
    s.insts[n]? = some (.translating t) → s'.insts[n]? = some (.translating t') →
    t' = { t with
      tlb := t'.tlb, faultStatus := t'.faultStatus
      faultAddr := t'.faultAddr, faultSid := t'.faultSid } ∧
    CacheKeeps t.tlb t'.tlb ∧ t.faultStatus &&& ~~~ t'.faultStatus = 0 ∧
    s'.mem = s.mem ∧ s'.holes = s.holes ∧ s'.params = s.params ∧ s'.inputs = s.inputs

/-! ## Reset -/

/-- 70 R196, R199, R200, 10_state R38 (decisions D32, D33): every register of the instance takes its reset value, the cache is empty,
a queued or running task is gone with no notification; other instances, requests in flight and memory are
untouched. -/
def Obligations.ResetRestoresEveryRegister : Prop :=
  ∀ (s : State) (n : Nat) (t : Translating), s.insts[n]? = some (.translating t) →
    ∃ u, exec (.reset n) s = .next { s with insts := s.insts.set n (.translating u) } ∧
      (∀ a < 16, u.remap[a]? = some (BitVec.ofNat 8 a)) ∧
      (∀ p < 16, u.tcr[p]? = some 0) ∧
      (∀ p < 16, ∀ i < 4, ∃ row, u.ttbr[p]? = some row ∧ row[i]? = some 0) ∧
      u.config = 0 ∧ u.tlbOp = 0 ∧ u.pendingInval = none ∧ u.task = none ∧ u.tlb = [] ∧
      u.targetSets = List.replicate s.params.setOffsets.length 0 ∧
      u.faultStatus = 0 ∧ u.faultAddr = 0 ∧ u.faultSid = 0

/-- 70 R201: after `RESET` every stream is bypassed. That the answer then grants nothing rests on the premise
93 U1 asks a claim to name: that bypass grants nothing, the spec's normative reading (log 18). -/
def Obligations.EveryStreamBypassedAfterReset : Prop :=
  ∀ (s s' : State) (n : Nat) (q : Sid) (r w : Bool) (iova : Quad),
    exec (.reset n) s = .next s' → s.params.sidPresent.getLsbD q.toNat = true →
    exec (.xlate n q r w iova) s' = .next { s' with
      nextTicket := s'.nextTicket + 1
      history := .xlate s'.nextTicket ⟨none, 0, pageMask s.params.pageSize⟩ :: s'.history }

/-! ## The whole machine -/

/-- The invariants of 10_state R36, with the canonical forms and what keeps them, hold at reset. -/
def Obligations.ResetSatisfiesInvariant : Prop := Inv State.reset

/-- 10_state R36: every step from a state that satisfies the invariant, whatever is in flight and whatever
events wait, leads to one that does. -/
def Obligations.StepKeepsInvariant : Prop :=
  ∀ s s' : State, Inv s → step s = .next s' → Inv s'

/-- 00_scope R8, 10_state R17: a step changes no construction parameter, makes and removes no instance, and
changes the kind of none. -/
def Obligations.ConstructionNeverChanges : Prop :=
  ∀ s s' : State, step s = .next s' →
    s'.params = s.params ∧ s'.insts.length = s.insts.length ∧
    ∀ (n : Nat) (i j : Inst), s.insts[n]? = some i → s'.insts[n]? = some j →
      (i = j ∨ ∃ t u, i = .translating t ∧ j = .translating u)

/-- 00_scope R12, 20_memory R49: no operation, no step of a request and no step of a deferred task writes
physical memory, or makes an address readable or unreadable. -/
def Obligations.EngineNeverWritesMemory : Prop :=
  ∀ s s' : State,
    ((∃ i, exec i s = .next s') ∨ (∃ k, requestStep k s = .next s') ∨
      ∃ n, taskStep n s = .next s') →
    s'.mem = s.mem ∧ s'.holes = s.holes

/-- 20_memory R57 "Steps on different instances never conflict": an operation leaves every instance but the one
it addresses as it was, and what is in flight as it was, but for the walk it starts itself. -/
def Obligations.OperationsTouchOnlyTheirInstance : Prop :=
  ∀ (i : Instr) (s s' : State) (m : Nat), exec i s = .next s' →
    (i.target ≠ some m → s'.insts[m]? = s.insts[m]?) ∧
    (s'.flights = s.flights ∨
      ∃ f, s'.flights = s.flights ++ [f] ∧ f.ticket = s.nextTicket ∧
        ((∃ t0 t1 t2 t3 page, i = .walk t0 t1 t2 t3 page) ∨ ∃ n q r w iova, i = .xlate n q r w iova))

/-- 20_memory R49: only a step of a request or a walk calls `read_physical`, and only a step of the instance's
deferred task, by a turn of the event loop or an `INV.RUN` event (log 11, DEDUCED), calls `notify_unmap`: what a
step adds to the history says so. -/
def Obligations.CollaboratorCallsHaveOneSource : Prop :=
  ∀ s s' : State, step s = .next s' →
    ∃ new : List Output, s'.history = new ++ s.history ∧ new.length ≤ 1 ∧
      (∀ a answer, Output.readPhysical a answer ∈ new →
        ∃ f ∈ s.flights, nextTurn s = .request f.ticket) ∧
      ∀ n q start len, Output.notifyUnmap n q start len ∈ new →
        (∃ t mask owed, s.insts[n]? = some (.translating t) ∧ t.task = some ⟨mask, q :: owed⟩) ∧
        (nextTurn s = .task n ∨ ∃ packet rest, nextTurn s = .input ∧
          s.inputs = .event packet :: rest ∧ decode s.params packet = .ok (.invRun n))

/-- 20_memory R68, 43 R148, 44 R164, 92 D34: with no turn imposed and no input left, the machine comes to rest:
every request returns and every accepted invalidation completes, within three steps a request and eighteen an
instance. The order of the agents is the model's default (`turns = []`; log 4, DESIGN CHOICE). -/
def Obligations.MachineComesToRest : Prop :=
  ∀ s : State, Inv s → s.turns = [] → s.inputs = [] →
    ∃ k s', k ≤ 3 * s.flights.length + 18 * s.insts.length ∧
      run k s = .next s' ∧ s'.quiescent

/-- 40 R102, R103, R105: the closing step of a `WALK` issued by itself answers its result, drops its flight, and
leaves every instance and all else as it was; and a `WALK` with no other agent acting answers what the pseudocode
says against the memory of the state, after at most two reads. The model's choices here (DESIGN CHOICE): that such
a `WALK` is a flight with a ticket (log 9), and that no other agent acts in the default order (`turns = []`;
log 4). -/
def Obligations.BareWalkAnswersItsResult : Prop :=
  ∀ s : State,
    (∀ (f : Flight) (w : WalkResult), nextTurn s = .request f.ticket → f ∈ s.flights →
      (s.flights.map Flight.ticket).Nodup → f.purpose = .bareWalk → f.phase = .done w →
      step s = .next { s with
        turns := s.turns.tail
        flights := s.flights.filter fun g => decide (g ≠ f)
        history := .walk f.ticket w :: s.history }) ∧
    ∀ (t0 t1 t2 t3 : Word) (page : Quad), s.turns = [] → s.flights = [] →
      ∃ s₀ k reads, exec (.walk t0 t1 t2 t3 page) s = .next s₀ ∧ k ≤ 3 ∧
        reads.length ≤ 2 ∧
        (∀ o ∈ reads, ∃ a, o = Output.readPhysical a (readPhysical s.mem s.holes a)) ∧
        run k s₀ = .next { s with
          nextTicket := s.nextTicket + 1
          history := .walk s.nextTicket (walkFrom s.params.pageSize (readPhysical s.mem s.holes)
            (selectTtbr s.params.pageSize t0 t1 t2 t3 page) page) :: (reads ++ s.history) }
end

