-- ==== Sys2Proof/Laws/Decode.lean ====
section
/-! SUPPORT. The fields of a descriptor and the halves of an operand: what the decoder reads from what the
encoder wrote, field by field. -/

namespace Sys2Proof

/-- A value of `k` bits written in an operand word is read back. -/
theorem operandOf_setWidth {k : Nat} (hk : k ≤ 32) (b : BitVec k) :
    operandOf k (b.setWidth 32) = .ok b := by
  have lt := b.isLt
  have le : 2 ^ k ≤ 2 ^ 32 := Nat.pow_le_pow_right (by decide) hk
  have e : (b.setWidth 32).toNat = b.toNat := by
    rw [BitVec.toNat_setWidth]
    exact Nat.mod_eq_of_lt (by omega)
  unfold operandOf
  rw [if_pos (by omega)]
  congr 1
  apply BitVec.eq_of_toNat_eq
  rw [BitVec.toNat_setWidth, e]
  exact Nat.mod_eq_of_lt lt

theorem quadOf_halves (v : Quad) : quadOf (loWord v) (hiWord v) = v := by
  simp only [quadOf, loWord, hiWord]
  apply BitVec.eq_of_getLsbD_eq
  intro i hi
  rw [BitVec.getLsbD_append, BitVec.getLsbD_extractLsb', BitVec.getLsbD_extractLsb']
  split
  · rename_i h
    simp [h]
  · rename_i h
    have lt : i - 32 < 32 := by omega
    simp [lt, show 32 + (i - 32) = i by omega]

theorem loWord_quadOf (lo hi : Word) : loWord (quadOf lo hi) = lo := by
  ext i h
  rw [loWord, quadOf, BitVec.getElem_extractLsb', BitVec.getLsbD_append]
  simp [h]

theorem hiWord_quadOf (lo hi : Word) : hiWord (quadOf lo hi) = hi := by
  ext i h
  rw [hiWord, quadOf, BitVec.getElem_extractLsb', BitVec.getLsbD_append]
  simp [h]

theorem instWord_toNat {n : Nat} (h : instFits n = true) : (instWord n).toNat = n := by
  have lt : n < 2 ^ 32 := by simpa [instFits] using h
  simp only [instWord, BitVec.toNat_ofNat]
  omega

/-- The fields of a bus descriptor (30_encoding R71). -/
theorem busDescriptor_fields (w : Bool) (o : BitVec 16) :
    (busDescriptor w o).extractLsb' 17 3 = 0 ∧ (busDescriptor w o).getLsbD 16 = w ∧
      (busDescriptor w o).extractLsb' 0 16 = o := by
  refine ⟨?_, ?_, ?_⟩
  · apply BitVec.eq_of_getLsbD_eq
    intro i hi
    rw [busDescriptor, BitVec.getLsbD_extractLsb', BitVec.getLsbD_append, BitVec.getLsbD_append]
    obtain rfl | rfl | rfl : i = 0 ∨ i = 1 ∨ i = 2 := by omega
    all_goals simp
  · rw [busDescriptor, BitVec.getLsbD_append, BitVec.getLsbD_append]
    simp
  · unfold busDescriptor
    ext i hi
    rw [BitVec.getElem_extractLsb', BitVec.getLsbD_append]
    simp [hi]

/-- The fields of an internal descriptor (30_encoding R73). -/
theorem internalDescriptor_fields (k : BitVec 4) :
    (internalDescriptor k).extractLsb' 17 3 = 7 ∧ (internalDescriptor k).extractLsb' 4 13 = 0 ∧
      (internalDescriptor k).extractLsb' 0 4 = k := by
  revert k
  decide

/-- A packet whose first word is a descriptor is decoded by its class. -/
theorem decode_cons (P : Params) (d : BitVec 20) (ops : List Word) :
    decode P (d.setWidth 32 :: ops) = decodeDescriptor P d ops := by
  have high : (d.setWidth 32).extractLsb' 20 12 = 0 := by
    ext i hi
    simp
  have low : (d.setWidth 32).extractLsb' 0 20 = d := by
    ext i hi
    have lt : i < 32 := by omega
    simp [hi, lt]
  simp only [decode, high, low]
  simp

theorem decode_bus_read (P : Params) (o : BitVec 16) (ops : List Word) :
    decode P ((busDescriptor false o).setWidth 32 :: ops) = decodeRead P o ops := by
  obtain ⟨c, w, e⟩ := busDescriptor_fields false o
  rw [decode_cons]
  simp only [decodeDescriptor, c, w, e]
  simp

theorem decode_bus_write (P : Params) (o : BitVec 16) (ops : List Word) :
    decode P ((busDescriptor true o).setWidth 32 :: ops) = decodeWrite P o ops := by
  obtain ⟨c, w, e⟩ := busDescriptor_fields true o
  rw [decode_cons]
  simp only [decodeDescriptor, c, w, e]
  simp

/-- A register read has one operand word, the instance number. -/
theorem operandCount_read (o : BitVec 16) : operandCount (busDescriptor false o) = 1 := by
  obtain ⟨c, e, _⟩ := busDescriptor_fields false o
  simp only [operandCount, c, e]
  simp

/-- A register write has two operand words, the instance number and the value. -/
theorem operandCount_write (o : BitVec 16) : operandCount (busDescriptor true o) = 2 := by
  obtain ⟨c, e, _⟩ := busDescriptor_fields true o
  simp only [operandCount, c, e]
  simp

end Sys2Proof
end

