-- ==== Sys2Proof/Laws/State.lean ====
section
/-! SUPPORT. One lemma per field per update of State and of a Translating instance, each true by rfl. -/

namespace Sys2Proof.Machine

@[simp] theorem State.emit_params (s : State) (o : Output) :
    (s.emit o).params = s.params := rfl
@[simp] theorem State.emit_insts (s : State) (o : Output) :
    (s.emit o).insts = s.insts := rfl
@[simp] theorem State.emit_flights (s : State) (o : Output) :
    (s.emit o).flights = s.flights := rfl
@[simp] theorem State.emit_mem (s : State) (o : Output) :
    (s.emit o).mem = s.mem := rfl
@[simp] theorem State.emit_holes (s : State) (o : Output) :
    (s.emit o).holes = s.holes := rfl
@[simp] theorem State.emit_inputs (s : State) (o : Output) :
    (s.emit o).inputs = s.inputs := rfl
@[simp] theorem State.emit_turns (s : State) (o : Output) :
    (s.emit o).turns = s.turns := rfl
@[simp] theorem State.emit_history (s : State) (o : Output) :
    (s.emit o).history = o :: s.history := rfl
@[simp] theorem State.emit_nextTicket (s : State) (o : Output) :
    (s.emit o).nextTicket = s.nextTicket := rfl
@[simp] theorem State.emit_freeCount (s : State) (o : Output) :
    (s.emit o).freeCount = s.freeCount := rfl

@[simp] theorem State.setInst_params (s : State) (n : Nat) (t : Translating) :
    (s.setInst n t).params = s.params := rfl
@[simp] theorem State.setInst_insts (s : State) (n : Nat) (t : Translating) :
    (s.setInst n t).insts = s.insts.set n (.translating t) := rfl
@[simp] theorem State.setInst_flights (s : State) (n : Nat) (t : Translating) :
    (s.setInst n t).flights = s.flights := rfl
@[simp] theorem State.setInst_mem (s : State) (n : Nat) (t : Translating) :
    (s.setInst n t).mem = s.mem := rfl
@[simp] theorem State.setInst_holes (s : State) (n : Nat) (t : Translating) :
    (s.setInst n t).holes = s.holes := rfl
@[simp] theorem State.setInst_inputs (s : State) (n : Nat) (t : Translating) :
    (s.setInst n t).inputs = s.inputs := rfl
@[simp] theorem State.setInst_turns (s : State) (n : Nat) (t : Translating) :
    (s.setInst n t).turns = s.turns := rfl
@[simp] theorem State.setInst_history (s : State) (n : Nat) (t : Translating) :
    (s.setInst n t).history = s.history := rfl
@[simp] theorem State.setInst_nextTicket (s : State) (n : Nat) (t : Translating) :
    (s.setInst n t).nextTicket = s.nextTicket := rfl
@[simp] theorem State.setInst_freeCount (s : State) (n : Nat) (t : Translating) :
    (s.setInst n t).freeCount = s.freeCount := rfl

@[simp] theorem State.turnTaken_params (s : State) :
    (s.turnTaken).params = s.params := rfl
@[simp] theorem State.turnTaken_insts (s : State) :
    (s.turnTaken).insts = s.insts := rfl
@[simp] theorem State.turnTaken_flights (s : State) :
    (s.turnTaken).flights = s.flights := rfl
@[simp] theorem State.turnTaken_mem (s : State) :
    (s.turnTaken).mem = s.mem := rfl
@[simp] theorem State.turnTaken_holes (s : State) :
    (s.turnTaken).holes = s.holes := rfl
@[simp] theorem State.turnTaken_inputs (s : State) :
    (s.turnTaken).inputs = s.inputs := rfl
@[simp] theorem State.turnTaken_turns (s : State) :
    (s.turnTaken).turns = s.turns.tail := rfl
@[simp] theorem State.turnTaken_history (s : State) :
    (s.turnTaken).history = s.history := rfl
@[simp] theorem State.turnTaken_nextTicket (s : State) :
    (s.turnTaken).nextTicket = s.nextTicket := rfl
@[simp] theorem State.turnTaken_freeCount (s : State) :
    (s.turnTaken).freeCount = s.freeCount := rfl

@[simp] theorem State.storeMem_params (s : State) (a v : Quad) :
    (s.storeMem a v).params = s.params := rfl
@[simp] theorem State.storeMem_insts (s : State) (a v : Quad) :
    (s.storeMem a v).insts = s.insts := rfl
@[simp] theorem State.storeMem_flights (s : State) (a v : Quad) :
    (s.storeMem a v).flights = s.flights := rfl
@[simp] theorem State.storeMem_mem (s : State) (a v : Quad) :
    (s.storeMem a v).mem = s.mem.write8 a v := rfl
@[simp] theorem State.storeMem_holes (s : State) (a v : Quad) :
    (s.storeMem a v).holes = removeHoles a s.holes := rfl
@[simp] theorem State.storeMem_inputs (s : State) (a v : Quad) :
    (s.storeMem a v).inputs = s.inputs := rfl
@[simp] theorem State.storeMem_turns (s : State) (a v : Quad) :
    (s.storeMem a v).turns = s.turns := rfl
@[simp] theorem State.storeMem_history (s : State) (a v : Quad) :
    (s.storeMem a v).history = s.history := rfl
@[simp] theorem State.storeMem_nextTicket (s : State) (a v : Quad) :
    (s.storeMem a v).nextTicket = s.nextTicket := rfl
@[simp] theorem State.storeMem_freeCount (s : State) (a v : Quad) :
    (s.storeMem a v).freeCount = s.freeCount := rfl

@[simp] theorem State.failMem_params (s : State) (a : Quad) :
    (s.failMem a).params = s.params := rfl
@[simp] theorem State.failMem_insts (s : State) (a : Quad) :
    (s.failMem a).insts = s.insts := rfl
@[simp] theorem State.failMem_flights (s : State) (a : Quad) :
    (s.failMem a).flights = s.flights := rfl
@[simp] theorem State.failMem_mem (s : State) (a : Quad) :
    (s.failMem a).mem = s.mem := rfl
@[simp] theorem State.failMem_holes (s : State) (a : Quad) :
    (s.failMem a).holes = addHoles a s.holes := rfl
@[simp] theorem State.failMem_inputs (s : State) (a : Quad) :
    (s.failMem a).inputs = s.inputs := rfl
@[simp] theorem State.failMem_turns (s : State) (a : Quad) :
    (s.failMem a).turns = s.turns := rfl
@[simp] theorem State.failMem_history (s : State) (a : Quad) :
    (s.failMem a).history = s.history := rfl
@[simp] theorem State.failMem_nextTicket (s : State) (a : Quad) :
    (s.failMem a).nextTicket = s.nextTicket := rfl
@[simp] theorem State.failMem_freeCount (s : State) (a : Quad) :
    (s.failMem a).freeCount = s.freeCount := rfl

@[simp] theorem State.putFlight_params (s : State) (f : Flight) :
    (s.putFlight f).params = s.params := rfl
@[simp] theorem State.putFlight_insts (s : State) (f : Flight) :
    (s.putFlight f).insts = s.insts := rfl
@[simp] theorem State.putFlight_flights (s : State) (f : Flight) :
    (s.putFlight f).flights = s.flights.map fun g => if g.ticket = f.ticket then f else g := rfl
@[simp] theorem State.putFlight_mem (s : State) (f : Flight) :
    (s.putFlight f).mem = s.mem := rfl
@[simp] theorem State.putFlight_holes (s : State) (f : Flight) :
    (s.putFlight f).holes = s.holes := rfl
@[simp] theorem State.putFlight_inputs (s : State) (f : Flight) :
    (s.putFlight f).inputs = s.inputs := rfl
@[simp] theorem State.putFlight_turns (s : State) (f : Flight) :
    (s.putFlight f).turns = s.turns := rfl
@[simp] theorem State.putFlight_history (s : State) (f : Flight) :
    (s.putFlight f).history = s.history := rfl
@[simp] theorem State.putFlight_nextTicket (s : State) (f : Flight) :
    (s.putFlight f).nextTicket = s.nextTicket := rfl
@[simp] theorem State.putFlight_freeCount (s : State) (f : Flight) :
    (s.putFlight f).freeCount = s.freeCount := rfl

@[simp] theorem State.dropFlight_params (s : State) (k : Nat) :
    (s.dropFlight k).params = s.params := rfl
@[simp] theorem State.dropFlight_insts (s : State) (k : Nat) :
    (s.dropFlight k).insts = s.insts := rfl
@[simp] theorem State.dropFlight_flights (s : State) (k : Nat) :
    (s.dropFlight k).flights = s.flights.filter fun g => decide (g.ticket ≠ k) := rfl
@[simp] theorem State.dropFlight_mem (s : State) (k : Nat) :
    (s.dropFlight k).mem = s.mem := rfl
@[simp] theorem State.dropFlight_holes (s : State) (k : Nat) :
    (s.dropFlight k).holes = s.holes := rfl
@[simp] theorem State.dropFlight_inputs (s : State) (k : Nat) :
    (s.dropFlight k).inputs = s.inputs := rfl
@[simp] theorem State.dropFlight_turns (s : State) (k : Nat) :
    (s.dropFlight k).turns = s.turns := rfl
@[simp] theorem State.dropFlight_history (s : State) (k : Nat) :
    (s.dropFlight k).history = s.history := rfl
@[simp] theorem State.dropFlight_nextTicket (s : State) (k : Nat) :
    (s.dropFlight k).nextTicket = s.nextTicket := rfl
@[simp] theorem State.dropFlight_freeCount (s : State) (k : Nat) :
    (s.dropFlight k).freeCount = s.freeCount := rfl

@[simp] theorem latchFault_remap (t : Translating) (bits : Word) (addr : Quad) (psid : Sid) :
    (latchFault t bits addr psid).remap = t.remap := rfl
@[simp] theorem latchFault_tcr (t : Translating) (bits : Word) (addr : Quad) (psid : Sid) :
    (latchFault t bits addr psid).tcr = t.tcr := rfl
@[simp] theorem latchFault_ttbr (t : Translating) (bits : Word) (addr : Quad) (psid : Sid) :
    (latchFault t bits addr psid).ttbr = t.ttbr := rfl
@[simp] theorem latchFault_config (t : Translating) (bits : Word) (addr : Quad) (psid : Sid) :
    (latchFault t bits addr psid).config = t.config := rfl
@[simp] theorem latchFault_tlbOp (t : Translating) (bits : Word) (addr : Quad) (psid : Sid) :
    (latchFault t bits addr psid).tlbOp = t.tlbOp := rfl
@[simp] theorem latchFault_targetSets (t : Translating) (bits : Word) (addr : Quad) (psid : Sid) :
    (latchFault t bits addr psid).targetSets = t.targetSets := rfl
@[simp] theorem latchFault_pendingInval (t : Translating) (bits : Word) (addr : Quad) (psid : Sid) :
    (latchFault t bits addr psid).pendingInval = t.pendingInval := rfl
@[simp] theorem latchFault_task (t : Translating) (bits : Word) (addr : Quad) (psid : Sid) :
    (latchFault t bits addr psid).task = t.task := rfl
@[simp] theorem latchFault_tlb (t : Translating) (bits : Word) (addr : Quad) (psid : Sid) :
    (latchFault t bits addr psid).tlb = t.tlb := rfl
@[simp] theorem latchFault_faultStatus (t : Translating) (bits : Word) (addr : Quad) (psid : Sid) :
    (latchFault t bits addr psid).faultStatus = t.faultStatus ||| bits := rfl
@[simp] theorem latchFault_faultAddr (t : Translating) (bits : Word) (addr : Quad) (psid : Sid) :
    (latchFault t bits addr psid).faultAddr = addr := rfl
@[simp] theorem latchFault_faultSid (t : Translating) (bits : Word) (addr : Quad) (psid : Sid) :
    (latchFault t bits addr psid).faultSid = psid := rfl

@[simp] theorem ackFault_remap (t : Translating) (val : Word) :
    (ackFault t val).remap = t.remap := rfl
@[simp] theorem ackFault_tcr (t : Translating) (val : Word) :
    (ackFault t val).tcr = t.tcr := rfl
@[simp] theorem ackFault_ttbr (t : Translating) (val : Word) :
    (ackFault t val).ttbr = t.ttbr := rfl
@[simp] theorem ackFault_config (t : Translating) (val : Word) :
    (ackFault t val).config = t.config := rfl
@[simp] theorem ackFault_tlbOp (t : Translating) (val : Word) :
    (ackFault t val).tlbOp = t.tlbOp := rfl
@[simp] theorem ackFault_targetSets (t : Translating) (val : Word) :
    (ackFault t val).targetSets = t.targetSets := rfl
@[simp] theorem ackFault_pendingInval (t : Translating) (val : Word) :
    (ackFault t val).pendingInval = t.pendingInval := rfl
@[simp] theorem ackFault_task (t : Translating) (val : Word) :
    (ackFault t val).task = t.task := rfl
@[simp] theorem ackFault_tlb (t : Translating) (val : Word) :
    (ackFault t val).tlb = t.tlb := rfl
@[simp] theorem ackFault_faultStatus (t : Translating) (val : Word) :
    (ackFault t val).faultStatus = t.faultStatus &&& ~~~ val := rfl
@[simp] theorem ackFault_faultAddr (t : Translating) (val : Word) :
    (ackFault t val).faultAddr = t.faultAddr := rfl
@[simp] theorem ackFault_faultSid (t : Translating) (val : Word) :
    (ackFault t val).faultSid = t.faultSid := rfl

@[simp] theorem taskComplete_remap (t : Translating) :
    (taskComplete t).remap = t.remap := rfl
@[simp] theorem taskComplete_tcr (t : Translating) :
    (taskComplete t).tcr = t.tcr := rfl
@[simp] theorem taskComplete_ttbr (t : Translating) :
    (taskComplete t).ttbr = t.ttbr := rfl
@[simp] theorem taskComplete_config (t : Translating) :
    (taskComplete t).config = t.config := rfl
@[simp] theorem taskComplete_tlbOp (t : Translating) :
    (taskComplete t).tlbOp = completedOp t.tlbOp := rfl
@[simp] theorem taskComplete_targetSets (t : Translating) :
    (taskComplete t).targetSets = t.targetSets := rfl
@[simp] theorem taskComplete_pendingInval (t : Translating) :
    (taskComplete t).pendingInval = none := rfl
@[simp] theorem taskComplete_task (t : Translating) :
    (taskComplete t).task = none := rfl
@[simp] theorem taskComplete_tlb (t : Translating) :
    (taskComplete t).tlb = t.tlb := rfl
@[simp] theorem taskComplete_faultStatus (t : Translating) :
    (taskComplete t).faultStatus = t.faultStatus := rfl
@[simp] theorem taskComplete_faultAddr (t : Translating) :
    (taskComplete t).faultAddr = t.faultAddr := rfl
@[simp] theorem taskComplete_faultSid (t : Translating) :
    (taskComplete t).faultSid = t.faultSid := rfl

@[simp] theorem taskEvict_remap (P : Params) (t : Translating) (mask : Quad) :
    (taskEvict P t mask).remap = t.remap := rfl
@[simp] theorem taskEvict_tcr (P : Params) (t : Translating) (mask : Quad) :
    (taskEvict P t mask).tcr = t.tcr := rfl
@[simp] theorem taskEvict_ttbr (P : Params) (t : Translating) (mask : Quad) :
    (taskEvict P t mask).ttbr = t.ttbr := rfl
@[simp] theorem taskEvict_config (P : Params) (t : Translating) (mask : Quad) :
    (taskEvict P t mask).config = t.config := rfl
@[simp] theorem taskEvict_tlbOp (P : Params) (t : Translating) (mask : Quad) :
    (taskEvict P t mask).tlbOp = t.tlbOp := rfl
@[simp] theorem taskEvict_targetSets (P : Params) (t : Translating) (mask : Quad) :
    (taskEvict P t mask).targetSets = t.targetSets := rfl
@[simp] theorem taskEvict_pendingInval (P : Params) (t : Translating) (mask : Quad) :
    (taskEvict P t mask).pendingInval = t.pendingInval := rfl
@[simp] theorem taskEvict_task (P : Params) (t : Translating) (mask : Quad) :
    (taskEvict P t mask).task = some ⟨mask, notifyList P mask⟩ := rfl
@[simp] theorem taskEvict_tlb (P : Params) (t : Translating) (mask : Quad) :
    (taskEvict P t mask).tlb = tlbEvict t.tlb mask := rfl
@[simp] theorem taskEvict_faultStatus (P : Params) (t : Translating) (mask : Quad) :
    (taskEvict P t mask).faultStatus = t.faultStatus := rfl
@[simp] theorem taskEvict_faultAddr (P : Params) (t : Translating) (mask : Quad) :
    (taskEvict P t mask).faultAddr = t.faultAddr := rfl
@[simp] theorem taskEvict_faultSid (P : Params) (t : Translating) (mask : Quad) :
    (taskEvict P t mask).faultSid = t.faultSid := rfl

end Sys2Proof.Machine
end

