-- ==== Sys2Proof/Laws/Maps.lean ====
section
/-! SUPPORT. The laws of canonical maps: what a read gives after each operation, that each keeps the
canonical form, and that maps in canonical form with the same reads are equal. -/

namespace Sys2Proof.Machine

variable {α β : Type} {rank : α → Nat}

theorem mapFind_mapSet_same [DecidableEq α] (k : α) (v : β) (m : List (α × β)) :
    mapFind k (mapSet rank k v m) = some v := by
  induction m with
  | nil => simp [mapSet, mapFind]
  | cons x m ih =>
    obtain ⟨k', v'⟩ := x
    simp only [mapSet]
    split
    · simp [mapFind]
    · split
      · simp [mapFind]
      · rename_i h
        have : k ≠ k' := fun e => h (by rw [e])
        simp [mapFind, this, ih]

theorem mapFind_mapSet_other [DecidableEq α] (inj : ∀ x y : α, rank x = rank y → x = y)
    {k j : α} (h : j ≠ k) (v : β) (m : List (α × β)) :
    mapFind j (mapSet rank k v m) = mapFind j m := by
  induction m with
  | nil => simp [mapSet, mapFind, h]
  | cons x m ih =>
    obtain ⟨k', v'⟩ := x
    simp only [mapSet]
    split
    · simp [mapFind, h]
    · split
      · rename_i e
        have : k = k' := inj _ _ e
        subst this
        simp [mapFind, h]
      · simp only [mapFind]
        split
        · rfl
        · exact ih

theorem mem_mapSet {k : α} {v : β} {m : List (α × β)} {x : α × β} (h : x ∈ mapSet rank k v m) :
    x = (k, v) ∨ x ∈ m := by
  induction m with
  | nil => exact .inl (by simpa [mapSet] using h)
  | cons y m ih =>
    simp only [mapSet] at h
    split at h
    · simp only [List.mem_cons] at h ⊢
      tauto
    · split at h
      · simp only [List.mem_cons] at h ⊢
        tauto
      · simp only [List.mem_cons] at h ⊢
        rcases h with h | h
        · exact .inr (.inl h)
        · rcases ih h with h | h
          · exact .inl h
          · exact .inr (.inr h)

theorem rising_mapSet (k : α) (v : β) {m : List (α × β)} (h : Rising rank m) :
    Rising rank (mapSet rank k v m) := by
  induction m with
  | nil => simp [mapSet, Rising]
  | cons x m ih =>
    obtain ⟨hx, hm⟩ := List.pairwise_cons.1 h
    simp only [mapSet]
    split
    · rename_i lt
      refine List.pairwise_cons.2 ⟨fun y hy => ?_, h⟩
      rcases List.mem_cons.1 hy with rfl | hy
      · exact lt
      · exact Nat.lt_trans lt (hx y hy)
    · split
      · rename_i e
        exact List.pairwise_cons.2 ⟨fun y hy => by simpa [e] using hx y hy, hm⟩
      · rename_i ge ne
        refine List.pairwise_cons.2 ⟨fun y hy => ?_, ih hm⟩
        rcases mem_mapSet hy with rfl | hy
        · show rank x.1 < rank k
          omega
        · exact hx y hy

theorem rising_filter (p : α × β → Bool) {m : List (α × β)} (h : Rising rank m) :
    Rising rank (m.filter p) := h.sublist List.filter_sublist

theorem rising_mapErase [DecidableEq α] (k : α) {m : List (α × β)} (h : Rising rank m) :
    Rising rank (mapErase k m) := rising_filter _ h

/-- A filter on keys keeps the value of each key it keeps and loses every other. -/
theorem mapFind_filter_key [DecidableEq α] (p : α → Bool) (k : α) (m : List (α × β)) :
    mapFind k (m.filter fun x => p x.1) = if p k then mapFind k m else none := by
  induction m with
  | nil => simp [mapFind]
  | cons x m ih =>
    obtain ⟨k', v'⟩ := x
    by_cases hk : k = k'
    · subst hk
      by_cases hp : p k
      · simp [hp, mapFind]
      · simp [hp, ih]
    · by_cases hp : p k'
      · simp [hp, mapFind, hk, ih]
      · simp [hp, mapFind, hk, ih]

theorem mapFind_mapErase_same [DecidableEq α] (k : α) (m : List (α × β)) :
    mapFind k (mapErase k m) = none := by
  simpa [mapErase] using mapFind_filter_key (fun x => decide (x ≠ k)) k m

theorem mapFind_mapErase_other [DecidableEq α] {k j : α} (h : j ≠ k) (m : List (α × β)) :
    mapFind j (mapErase k m) = mapFind j m := by
  simpa [mapErase, h] using mapFind_filter_key (fun x => decide (x ≠ k)) j m

theorem mapFind_mem [DecidableEq α] {k : α} {v : β} {m : List (α × β)}
    (h : mapFind k m = some v) : (k, v) ∈ m := by
  induction m with
  | nil => simp [mapFind] at h
  | cons x m ih =>
    obtain ⟨k', v'⟩ := x
    simp only [mapFind] at h
    split at h
    · rename_i e
      simp_all
    · exact List.mem_cons_of_mem _ (ih h)

theorem mapFind_of_mem [DecidableEq α] {k : α} {v : β} {m : List (α × β)} (hm : Rising rank m)
    (h : (k, v) ∈ m) : mapFind k m = some v := by
  induction m with
  | nil => simp at h
  | cons x m ih =>
    obtain ⟨k', v'⟩ := x
    obtain ⟨hx, hm⟩ := List.pairwise_cons.1 hm
    rcases List.mem_cons.1 h with e | hv
    · cases e
      simp [mapFind]
    · have : k ≠ k' := by
        rintro rfl
        exact Nat.lt_irrefl _ (hx (k, v) hv)
      simp [mapFind, this, ih hm hv]

/-- Two maps in canonical form with the same entries are the same list. -/
theorem rising_ext {m m' : List (α × β)} (h : Rising rank m) (h' : Rising rank m')
    (e : ∀ x, x ∈ m ↔ x ∈ m') : m = m' := by
  induction m generalizing m' with
  | nil =>
    cases m' with
    | nil => rfl
    | cons y m' => exact absurd ((e y).2 (by simp)) (by simp)
  | cons x m ih =>
    cases m' with
    | nil => exact absurd ((e x).1 (by simp)) (by simp)
    | cons y m' =>
      obtain ⟨hx, hm⟩ := List.pairwise_cons.1 h
      obtain ⟨hy, hm'⟩ := List.pairwise_cons.1 h'
      have hxy : x = y := by
        rcases List.mem_cons.1 ((e x).1 (by simp)) with r | r
        · exact r
        · rcases List.mem_cons.1 ((e y).2 (by simp)) with r' | r'
          · exact r'.symm
          · exact absurd (hx y r') (Nat.lt_asymm (hy x r))
      subst hxy
      refine congrArg _ (ih hm hm' fun z => ?_)
      constructor
      · intro hz
        rcases List.mem_cons.1 ((e z).1 (List.mem_cons_of_mem _ hz)) with r | r
        · exact absurd (hx z hz) (by simp [r])
        · exact r
      · intro hz
        rcases List.mem_cons.1 ((e z).2 (List.mem_cons_of_mem _ hz)) with r | r
        · exact absurd (hy z hz) (by simp [r])
        · exact r

/-- Two canonical maps that answer every key alike are equal. -/
theorem rising_ext_find [DecidableEq α] {m m' : List (α × β)} (h : Rising rank m)
    (h' : Rising rank m') (e : ∀ k, mapFind k m = mapFind k m') : m = m' :=
  rising_ext h h' fun ⟨k, _⟩ =>
    ⟨fun hx => mapFind_mem ((e k).symm.trans (mapFind_of_mem h hx)),
     fun hx => mapFind_mem ((e k).trans (mapFind_of_mem h' hx))⟩

/-- The rank of a cache key names it. -/
theorem tlbRank_inj : ∀ x y : TlbKey, tlbRank x = tlbRank y → x = y := by
  rintro ⟨p, a⟩ ⟨q, b⟩ h
  simp only [tlbRank] at h
  have ha := a.isLt
  have hb := b.isLt
  have hab : a = b := BitVec.eq_of_toNat_eq (by omega)
  have hpq : p = q := BitVec.eq_of_toNat_eq (by subst hab; omega)
  rw [hab, hpq]

theorem tlbFind_tlbSet_same (c : Tlb) (p : Sid) (page : Quad) (e : TlbEntry) :
    tlbFind (tlbSet c p page e) p page = some e := mapFind_mapSet_same _ _ _

theorem tlbFind_tlbSet_other (c : Tlb) {p q : Sid} {page page' : Quad} (e : TlbEntry)
    (h : ¬(q = p ∧ page' = page)) : tlbFind (tlbSet c p page e) q page' = tlbFind c q page' :=
  mapFind_mapSet_other tlbRank_inj (by simpa using h) _ _

theorem tlbFind_tlbEvict (c : Tlb) (mask : Quad) (p : Sid) (page : Quad) :
    tlbFind (tlbEvict c mask) p page
      = if mask.getLsbD p.toNat then none else tlbFind c p page := by
  have := mapFind_filter_key (fun k : TlbKey => !mask.getLsbD k.psid.toNat) ⟨p, page⟩ c
  simp only [tlbFind, tlbEvict, this]
  cases mask.getLsbD p.toNat <;> simp

end Sys2Proof.Machine
end

