-- ==== Sys2Proof/Laws/Memory.lean ====
section
/-! SUPPORT. The laws of physical memory: a read after a write, and that every memory operation keeps
the canonical form. -/

namespace Sys2Proof.Machine

theorem Memory.read_write_same (m : Memory) (a : Nat) (b : Byte) : (m.write a b).read a = b := by
  unfold Memory.read Memory.write
  split
  · rename_i h
    simp [mapFind_mapErase_same, h]
  · simp [mapFind_mapSet_same (rank := id)]

theorem Memory.read_write_other (m : Memory) {a c : Nat} (h : c ≠ a) (b : Byte) :
    (m.write a b).read c = m.read c := by
  unfold Memory.read Memory.write
  split
  · rw [mapFind_mapErase_other h]
  · rw [mapFind_mapSet_other (rank := id) (fun _ _ h => h) h]

theorem Memory.wf_write {m : Memory} (h : m.wf) {a : Nat} (ha : a < 2 ^ 64) (b : Byte) :
    (m.write a b).wf := by
  unfold Memory.write
  split
  · exact ⟨rising_mapErase _ h.1, fun c hc => h.2 c (List.mem_of_mem_filter hc)⟩
  · rename_i hb
    refine ⟨rising_mapSet _ _ h.1, fun c hc => ?_⟩
    rcases mem_mapSet hc with rfl | hc
    · exact ⟨ha, hb⟩
    · exact h.2 c hc

theorem byteAddr_lt (a : Quad) (j : Nat) : byteAddr a j < 2 ^ 64 := BitVec.isLt _

theorem storeBytes_wf (a v : Quad) (js : List Nat) {m : Memory} (h : m.wf) :
    (storeBytes a v js m).wf := by
  induction js generalizing m with
  | nil => exact h
  | cons j js ih => exact ih (Memory.wf_write h (byteAddr_lt a j) _)

theorem Memory.wf_write8 {m : Memory} (h : m.wf) (a v : Quad) : (m.write8 a v).wf :=
  storeBytes_wf a v _ h

/-- The bytes a store does not name keep their value. -/
theorem storeBytes_read_other (a v : Quad) (js : List Nat) (m : Memory) {c : Nat}
    (h : ∀ j ∈ js, c ≠ byteAddr a j) : (storeBytes a v js m).read c = m.read c := by
  induction js generalizing m with
  | nil => rfl
  | cons j js ih =>
    simp only [storeBytes]
    rw [ih _ fun k hk => h k (List.mem_cons_of_mem _ hk),
      Memory.read_write_other _ (h j (by simp))]

theorem Memory.read_write8_other (m : Memory) (a v : Quad) {c : Nat}
    (h : ∀ j < 8, c ≠ byteAddr a j) : (m.write8 a v).read c = m.read c :=
  storeBytes_read_other a v _ m fun j hj => h j (List.mem_range.1 hj)

theorem byteAddr_inj (a : Quad) {i j : Nat} (hi : i < 8) (hj : j < 8)
    (h : byteAddr a i = byteAddr a j) : i = j := by
  have e : BitVec.ofNat 64 i = BitVec.ofNat 64 j := by
    have := BitVec.eq_of_toNat_eq h
    simpa using this
  have := congrArg BitVec.toNat e
  simp only [BitVec.toNat_ofNat] at this
  omega

theorem storeBytes_read_named (a v : Quad) (js : List Nat) (m : Memory) (nd : js.Nodup)
    (lt : ∀ j ∈ js, j < 8) {j : Nat} (hj : j ∈ js) :
    (storeBytes a v js m).read (byteAddr a j) = byteOf v j := by
  induction js generalizing m with
  | nil => simp at hj
  | cons k js ih =>
    obtain ⟨hk, nd⟩ := List.nodup_cons.1 nd
    simp only [storeBytes]
    rcases List.mem_cons.1 hj with rfl | hj
    · rw [storeBytes_read_other _ _ _ _ fun i hi e => hk (by
        rwa [byteAddr_inj a (lt _ (by simp)) (lt i (List.mem_cons_of_mem _ hi)) e]),
        Memory.read_write_same]
    · exact ih _ nd (fun i hi => lt i (List.mem_cons_of_mem _ hi)) hj

theorem Memory.read_write8_same (m : Memory) (a v : Quad) {j : Nat} (hj : j < 8) :
    (m.write8 a v).read (byteAddr a j) = byteOf v j :=
  storeBytes_read_named a v _ m List.nodup_range (fun _ h => List.mem_range.1 h)
    (List.mem_range.2 hj)

theorem mem_addHole {a x : Nat} {h : List Nat} : x ∈ addHole a h ↔ x = a ∨ x ∈ h := by
  induction h with
  | nil => simp [addHole]
  | cons b h ih =>
    simp only [addHole]
    split
    · simp
    · split
      · rename_i e
        subst e
        simp
      · simp only [List.mem_cons, ih]
        tauto

theorem addHole_rising (a : Nat) {h : List Nat} (r : h.Pairwise (· < ·)) :
    (addHole a h).Pairwise (· < ·) := by
  induction h with
  | nil => simp [addHole]
  | cons b h ih =>
    obtain ⟨hb, r'⟩ := List.pairwise_cons.1 r
    simp only [addHole]
    split
    · rename_i lt
      refine List.pairwise_cons.2 ⟨fun y hy => ?_, r⟩
      rcases List.mem_cons.1 hy with rfl | hy
      · exact lt
      · exact Nat.lt_trans lt (hb y hy)
    · split
      · exact r
      · refine List.pairwise_cons.2 ⟨fun y hy => ?_, ih r'⟩
        rcases mem_addHole.1 hy with rfl | hy
        · omega
        · exact hb y hy

/-- What `MEMFAIL` makes unreadable: its eight bytes, and what was unreadable before. -/
theorem mem_addHoles {a : Quad} {h : List Nat} {c : Nat} :
    c ∈ addHoles a h ↔ (∃ j < 8, c = byteAddr a j) ∨ c ∈ h := by
  have fold : ∀ (js h : List Nat),
      c ∈ js.foldl (fun acc j => addHole (byteAddr a j) acc) h ↔
        (∃ j ∈ js, c = byteAddr a j) ∨ c ∈ h := by
    intro js
    induction js with
    | nil => simp
    | cons j js ih =>
      intro h
      simp only [List.foldl_cons, ih, mem_addHole, List.exists_mem_cons_iff, or_assoc, or_left_comm]
  simp only [addHoles, fold, List.mem_range]

/-- What stays unreadable when eight bytes are stored: every other such address. -/
theorem mem_removeHoles {a : Quad} {h : List Nat} {c : Nat} :
    c ∈ removeHoles a h ↔ c ∈ h ∧ ∀ j < 8, c ≠ byteAddr a j := by
  have apart : (¬ ∃ j < 8, byteAddr a j = c) ↔ ∀ j < 8, c ≠ byteAddr a j :=
    ⟨fun h j hj e => h ⟨j, hj, e.symm⟩, fun h ⟨j, hj, e⟩ => h j hj e.symm⟩
  simp only [removeHoles, List.mem_filter, Bool.not_eq_true', ← Bool.not_eq_true,
    List.contains_iff_mem, List.mem_map, List.mem_range, apart]

/-- A read fails exactly when one of its eight bytes is unreadable. -/
theorem readPhysical_eq_none {m : Memory} {h : List Nat} {b : Quad} :
    readPhysical m h b = none ↔ ∃ i < 8, byteAddr b i ∈ h := by
  simp [readPhysical]

/-- The answer of a read depends on its eight bytes only. -/
theorem readPhysical_congr {m m' : Memory} {h h' : List Nat} {b : Quad}
    (bytes : ∀ i < 8, m'.read (byteAddr b i) = m.read (byteAddr b i))
    (same : ∀ i < 8, byteAddr b i ∈ h' ↔ byteAddr b i ∈ h) :
    readPhysical m' h' b = readPhysical m h b := by
  have any : ((List.range 8).map (byteAddr b)).any h'.contains
      = ((List.range 8).map (byteAddr b)).any h.contains := by
    rw [Bool.eq_iff_iff]
    simp only [List.any_eq_true, List.mem_map, List.mem_range, List.contains_iff_mem]
    constructor
    · rintro ⟨_, ⟨i, hi, rfl⟩, hm⟩
      exact ⟨_, ⟨i, hi, rfl⟩, (same i hi).1 hm⟩
    · rintro ⟨_, ⟨i, hi, rfl⟩, hm⟩
      exact ⟨_, ⟨i, hi, rfl⟩, (same i hi).2 hm⟩
  have read : m'.read8 b = m.read8 b := by
    simp [Memory.read8, bytes]
  simp only [readPhysical, any, read]

end Sys2Proof.Machine
end

