-- ==== Sys2Proof/Laws/Ops.lean ====
section
/-! SUPPORT. One lemma per shared operation that says everything it can do: on a Translating instance
what it answers, and from an answer of `next` back to the case it came from. -/

namespace Sys2Proof.Machine

open Host (Outcome)

section Access

variable {n : Nat} {s s' : State} {t : Translating}

theorem onInst_at (h : s.insts[n]? = some (.translating t))
    (f : Translating → Outcome State Fault Refusal) : onInst n s f = f t := by
  simp only [onInst, h]

theorem onInst_next {f : Translating → Outcome State Fault Refusal} (h : onInst n s f = .next s') :
    ∃ t, s.insts[n]? = some (.translating t) ∧ f t = .next s' := by
  unfold onInst at h
  split at h
  · rename_i t ht
    exact ⟨t, ht, h⟩
  all_goals cases h

theorem onInst_companion (h : s.insts[n]? = some .companion)
    (f : Translating → Outcome State Fault Refusal) :
    onInst n s f = .refused (.notTranslating n) := by simp only [onInst, h]

theorem onInst_unknown (h : s.insts[n]? = some .unknown)
    (f : Translating → Outcome State Fault Refusal) :
    onInst n s f = .refused (.notTranslating n) := by simp only [onInst, h]

theorem onInst_none (h : s.insts[n]? = none)
    (f : Translating → Outcome State Fault Refusal) :
    onInst n s f = .refused (.noInstance n) := by simp only [onInst, h]

theorem busRead_at (h : s.insts[n]? = some (.translating t)) (value : Translating → Word) :
    busRead n s value = .next (s.emit (.readValue n (value t))) := onInst_at h _

theorem busRead_next {value : Translating → Word} (h : busRead n s value = .next s') :
    ∃ t, s.insts[n]? = some (.translating t) ∧ s' = s.emit (.readValue n (value t)) := by
  obtain ⟨t, ht, e⟩ := onInst_next h
  cases e
  exact ⟨t, ht, rfl⟩

theorem busWrite_at (h : s.insts[n]? = some (.translating t)) (f : Translating → Translating) :
    busWrite n s f = .next (s.setInst n (f t)) := onInst_at h _

theorem busWrite_next {f : Translating → Translating} (h : busWrite n s f = .next s') :
    ∃ t, s.insts[n]? = some (.translating t) ∧ s' = s.setInst n (f t) := by
  obtain ⟨t, ht, e⟩ := onInst_next h
  cases e
  exact ⟨t, ht, rfl⟩

/-- The written instance reads back. -/
theorem setInst_at (h : s.insts[n]? = some (.translating t)) (u : Translating) :
    (s.setInst n u).insts[n]? = some (.translating u) := by
  obtain ⟨lt, _⟩ := List.getElem?_eq_some_iff.1 h
  simp [lt]

/-- Every other instance reads as before. -/
theorem setInst_other {m : Nat} (h : m ≠ n) (u : Translating) :
    (s.setInst n u).insts[m]? = s.insts[m]? := by
  simp [Ne.symm h]

/-- A write changes the state of an instance and the kind of none. -/
theorem setInst_kinds (h : s.insts[n]? = some (.translating t)) (u : Translating) (m : Nat) :
    (∃ w, (s.setInst n u).insts[m]? = some (.translating w))
      ↔ ∃ w, s.insts[m]? = some (.translating w) := by
  by_cases e : m = n
  · subst e
    simp only [setInst_at h, h]
    exact ⟨fun _ => ⟨t, rfl⟩, fun _ => ⟨u, rfl⟩⟩
  · rw [setInst_other e]

end Access

/-- What a step of the deferred task can do: T1, one notification, or T3. -/
theorem taskStep_next {n : Nat} {s s' : State} (h : taskStep n s = .next s') :
    ∃ t mask, s.insts[n]? = some (.translating t) ∧ t.pendingInval = some mask ∧
      ((t.task = none ∧ loopBusyElsewhere n s = false ∧
          s' = s.setInst n (taskEvict s.params t mask)) ∨
       (∃ k sid rest, t.task = some ⟨k, sid :: rest⟩ ∧
          s' = (s.setInst n { t with task := some ⟨k, rest⟩ }).emit
            (.notifyUnmap n sid 0 (spaceLength s.params.pageSize))) ∨
       (∃ k, t.task = some ⟨k, []⟩ ∧ s' = s.setInst n (taskComplete t))) := by
  obtain ⟨t, ht, h⟩ := onInst_next h
  split at h
  · cases h
  · rename_i mask hp hk
    split at h
    · cases h
    · rename_i hl
      cases h
      exact ⟨t, mask, ht, hp, .inl ⟨hk, by simpa using hl, rfl⟩⟩
  · rename_i mask k sid rest hp hk
    cases h
    exact ⟨t, mask, ht, hp, .inr (.inl ⟨k, sid, rest, hk, rfl⟩)⟩
  · rename_i mask k hp hk
    cases h
    exact ⟨t, mask, ht, hp, .inr (.inr ⟨k, hk, rfl⟩)⟩

/-- What a write of the operation word can do: nothing, or an acceptance (44 R153). -/
theorem writeTlbOp_cases (nSets : Nat) (t : Translating) (val : Word) :
    (writeTlbOp nSets t val = t ∧
      (opBusy t.tlbOp = true ∨ opOpcode val ≠ 1 ∨ selectedMask val t.targetSets = 0)) ∨
    (opBusy t.tlbOp = false ∧ opOpcode val = 1 ∧ selectedMask val t.targetSets ≠ 0 ∧
      writeTlbOp nSets t val =
        { t with
          tlbOp := acceptedOp nSets val
          pendingInval := some (selectedMask val t.targetSets) }) := by
  unfold writeTlbOp
  split
  · rename_i h
    exact .inl ⟨rfl, .inl h⟩
  · rename_i h
    split
    · rename_i g
      exact .inr ⟨by simpa using h, g.1, g.2, rfl⟩
    · rename_i g
      refine .inl ⟨rfl, ?_⟩
      by_cases e : opOpcode val = 1
      · exact .inr (.inr (by simpa [e] using g))
      · exact .inr (.inl e)

/-- What PermissionAnnotate does to the instance: nothing, or one latch (43 R145). -/
theorem annotate_cases (z : PageSize) (t : Translating) (e : TlbEntry) (r : Request) :
    (annotate z t e r).2 = ⟨some e.blockAddr, e.perm, pageMask z⟩ ∧
    ((protBits e.perm r.wantR r.wantW = 0 ∧ (annotate z t e r).1 = t) ∨
     (annotate z t e r).1 = latchFault t (protBits e.perm r.wantR r.wantW) r.iova r.psid) := by
  refine ⟨rfl, ?_⟩
  by_cases h : protBits e.perm r.wantR r.wantW = 0
  · exact .inl ⟨h, by simp [annotate, h]⟩
  · exact .inr (by unfold annotate; exact if_neg h)

/-- The protection bits are fault bits. -/
theorem protBits_subset (p : Perm) (wantR wantW : Bool) :
    protBits p wantR wantW &&& ~~~ faultAll = 0 := by
  revert p wantR wantW
  decide

theorem kind_bit_subset (k : WalkFault) : k.kind.bit &&& ~~~ faultAll = 0 := by
  cases k <;> decide

/-- What section S1 does to the state of a request that it finishes: nothing, or one latch of fault bits
(43 R140, R141, R144). -/
theorem xlateS1_finished {P : Params} {t t' : Translating} {r : Request} {res : XlateResult}
    (h : xlateS1 P t r = .finished t' res) :
    t' = t ∨ ∃ b, t' = latchFault t b r.iova r.psid ∧ b &&& ~~~ faultAll = 0 := by
  unfold xlateS1 at h
  split at h
  · cases h
    exact .inl rfl
  · split at h
    · cases h
      rcases (annotate_cases P.pageSize t _ r).2 with h | h
      · exact .inl h.2
      · exact .inr ⟨_, h, protBits_subset _ _ _⟩
    · dsimp only at h
      split at h <;> cases h
      exact .inr ⟨_, rfl, by decide⟩

/-- What section S2 does: the cache is as it was, or a key still absent was inserted, and then nothing or one
latch of fault bits (43 R143 to R145). -/
theorem xlateS2_cases (z : PageSize) (t : Translating) (r : Request) (w : WalkResult) :
    ∃ c, (c = t.tlb ∨ (tlbFind t.tlb r.psid (pageOf z r.iova) = none ∧
        ∃ e, w = .ok e ∧ c = tlbSet t.tlb r.psid (pageOf z r.iova) e)) ∧
      ((xlateS2 z t r w).1 = { t with tlb := c } ∨
        ∃ b, (xlateS2 z t r w).1 = latchFault { t with tlb := c } b r.iova r.psid ∧
          b &&& ~~~ faultAll = 0) := by
  unfold xlateS2
  split
  · exact ⟨t.tlb, .inl rfl, .inr ⟨_, rfl, kind_bit_subset _⟩⟩
  · split
    · rename_i e _
      refine ⟨t.tlb, .inl rfl, ?_⟩
      rcases (annotate_cases z t e r).2 with h | h
      · exact .inl h.2
      · exact .inr ⟨_, h, protBits_subset _ _ _⟩
    · rename_i new _ absent
      let u := { t with tlb := tlbSet t.tlb r.psid (pageOf z r.iova) new }
      refine ⟨u.tlb, .inr ⟨absent, new, rfl, rfl⟩, ?_⟩
      rcases (annotate_cases z u new r).2 with h | h
      · exact .inl h.2
      · exact .inr ⟨_, h, protBits_subset _ _ _⟩

/-- What a step of a flight can do: one read, or its closing step. -/
theorem flightStep_next {f : Flight} {s s' : State} (h : flightStep f s = .next s') :
    (∃ level base, f.phase = .reading level base ∧
      s' = (s.putFlight
        { f with
          phase := walkRead s.params.pageSize level
            (readPhysical s.mem s.holes (walkAddr s.params.pageSize level base f.page)) }).emit
        (.readPhysical (walkAddr s.params.pageSize level base f.page)
          (readPhysical s.mem s.holes (walkAddr s.params.pageSize level base f.page)))) ∨
    (∃ w, f.phase = .done w ∧ f.purpose = .bareWalk ∧
      s' = (s.dropFlight f.ticket).emit (.walk f.ticket w)) ∨
    (∃ w r t, f.phase = .done w ∧ f.purpose = .request r ∧
      s.insts[r.inst]? = some (.translating t) ∧
      s' = ((s.dropFlight f.ticket).setInst r.inst (xlateS2 s.params.pageSize t r w).1).emit
        (.xlate f.ticket (xlateS2 s.params.pageSize t r w).2)) := by
  unfold flightStep at h
  split at h
  · rename_i level base hp
    cases h
    exact .inl ⟨level, base, hp, rfl⟩
  · rename_i w hp
    unfold finishFlight at h
    split at h
    · rename_i hq
      cases h
      exact .inr (.inl ⟨w, hp, hq, rfl⟩)
    · rename_i r hq
      obtain ⟨t, ht, h⟩ := onInst_next h
      cases h
      exact .inr (.inr ⟨w, r, t, hp, hq, by simpa using ht, rfl⟩)

theorem requestStep_next {k : Nat} {s s' : State} (h : requestStep k s = .next s') :
    ∃ f ∈ s.flights, f.ticket = k ∧ flightStep f s = .next s' := by
  unfold requestStep at h
  split at h
  · rename_i f hf
    exact ⟨f, List.mem_of_find?_eq_some hf, by simpa using List.find?_some hf, h⟩
  · cases h

/-- An operation that its port takes is run, on the port of its kind. -/
theorem acceptOn_next {p : Bool} {i : Instr} {s s' : State} (h : acceptOn p i s = .next s') :
    i.isInternal = p ∧ exec i s = .next s' := by
  unfold acceptOn at h
  split at h
  · exact ⟨‹_›, h⟩
  · exact ⟨‹_›, h⟩
  · cases h
  · cases h

/-- What a step can do: run a decoded operation, make a move of the memory collaborator, move a request
or a deferred task, or nothing. -/
theorem step_next {s s' : State} (h : step s = .next s') :
    (∃ i packet rest, nextTurn s = .input ∧ decode s.params packet = .ok i ∧
      ((s.inputs = .event packet :: rest ∧ i.isInternal = false) ∨
        (s.inputs = .internal packet :: rest ∧ i.isInternal = true)) ∧
      exec i { s.turnTaken with inputs := rest } = .next s') ∨
    (∃ a v rest, nextTurn s = .input ∧ s.inputs = .mem64 a v :: rest ∧
      s' = { s.turnTaken with inputs := rest }.storeMem a v) ∨
    (∃ a rest, nextTurn s = .input ∧ s.inputs = .memFail a :: rest ∧
      s' = { s.turnTaken with inputs := rest }.failMem a) ∨
    (∃ k, nextTurn s = .request k ∧ requestStep k s.turnTaken = .next s') ∨
    (∃ n, nextTurn s = .task n ∧ taskStep n s.turnTaken = .next s') ∨
    (nextTurn s = .idle ∧ s' = s.turnTaken) := by
  unfold step at h
  split at h
  · rename_i turn
    unfold takeInput at h
    split at h
    · cases h
    · rename_i packet rest hi
      unfold receive at h
      split at h
      · cases h
      · rename_i i hd
        obtain ⟨hp, he⟩ := acceptOn_next h
        exact .inl ⟨i, packet, rest, turn, hd, .inl ⟨hi, hp⟩, he⟩
    · rename_i packet rest hi
      unfold receive at h
      split at h
      · cases h
      · rename_i i hd
        obtain ⟨hp, he⟩ := acceptOn_next h
        exact .inl ⟨i, packet, rest, turn, hd, .inr ⟨hi, hp⟩, he⟩
    · rename_i a v rest hi
      cases h
      exact .inr (.inl ⟨a, v, rest, turn, hi, rfl⟩)
    · rename_i a rest hi
      cases h
      exact .inr (.inr (.inl ⟨a, rest, turn, hi, rfl⟩))
  · rename_i k hk
    exact .inr (.inr (.inr (.inl ⟨k, hk, h⟩)))
  · rename_i n hn
    exact .inr (.inr (.inr (.inr (.inl ⟨n, hn, h⟩))))
  · rename_i hn
    cases h
    exact .inr (.inr (.inr (.inr (.inr ⟨hn, rfl⟩))))

/-- A run of one step more, from a step that answers a next state. -/
theorem run_next (k : Nat) {s s' : State} (h : step s = .next s') : run (k + 1) s = run k s' := by
  rw [run, h]

end Sys2Proof.Machine
end

