-- ==== Sys2Proof/Laws/PerInstr.lean ====
section
/-! SUPPORT. The family `PacketLength`: the operand words an operation is written with are as many as its own
descriptor says (log 3), which is how many words `tablePacket` lays out. -/

namespace Sys2Proof.Laws.PacketLength

/-- The operands of the operation are as many as its descriptor announces, under every layout. -/
def Statement (i : Instr) : Prop :=
  ∀ P : Params, (operandsOf i).length = operandCount (descriptorOf P i)

theorem rdParams (n : Nat) : Statement (.rdParams n) := fun _ => (operandCount_read _).symm

theorem wrParams (n : Nat) (val : Word) : Statement (.wrParams n val) :=
  fun _ => (operandCount_write _).symm

theorem rdTlbOp (n : Nat) : Statement (.rdTlbOp n) := fun _ => (operandCount_read _).symm

theorem wrTlbOp (n : Nat) (val : Word) : Statement (.wrTlbOp n val) :=
  fun _ => (operandCount_write _).symm

theorem rdTargetSetLo (n : Nat) (k : Nat) : Statement (.rdTargetSetLo n k) :=
  fun _ => (operandCount_read _).symm

theorem wrTargetSetLo (n : Nat) (k : Nat) (val : Word) : Statement (.wrTargetSetLo n k val) :=
  fun _ => (operandCount_write _).symm

theorem rdTargetSetHi (n : Nat) (k : Nat) : Statement (.rdTargetSetHi n k) :=
  fun _ => (operandCount_read _).symm

theorem wrTargetSetHi (n : Nat) (k : Nat) (val : Word) : Statement (.wrTargetSetHi n k val) :=
  fun _ => (operandCount_write _).symm

theorem rdErrorStatus (n : Nat) : Statement (.rdErrorStatus n) :=
  fun _ => (operandCount_read _).symm

theorem wrErrorStatus (n : Nat) (val : Word) : Statement (.wrErrorStatus n val) :=
  fun _ => (operandCount_write _).symm

theorem rdErrorAddrLo (n : Nat) : Statement (.rdErrorAddrLo n) :=
  fun _ => (operandCount_read _).symm

theorem wrErrorAddrLo (n : Nat) (val : Word) : Statement (.wrErrorAddrLo n val) :=
  fun _ => (operandCount_write _).symm

theorem rdErrorAddrHi (n : Nat) : Statement (.rdErrorAddrHi n) :=
  fun _ => (operandCount_read _).symm

theorem wrErrorAddrHi (n : Nat) (val : Word) : Statement (.wrErrorAddrHi n val) :=
  fun _ => (operandCount_write _).symm

theorem rdConfig (n : Nat) : Statement (.rdConfig n) := fun _ => (operandCount_read _).symm

theorem wrConfig (n : Nat) (val : Word) : Statement (.wrConfig n val) :=
  fun _ => (operandCount_write _).symm

theorem rdSidRemap (n : Nat) (w : BitVec 2) : Statement (.rdSidRemap n w) :=
  fun _ => (operandCount_read _).symm

theorem wrSidRemap (n : Nat) (w : BitVec 2) (val : Word) : Statement (.wrSidRemap n w val) :=
  fun _ => (operandCount_write _).symm

theorem rdTcr (n : Nat) (p : Sid) : Statement (.rdTcr n p) := fun _ => (operandCount_read _).symm

theorem wrTcr (n : Nat) (p : Sid) (val : Word) : Statement (.wrTcr n p val) :=
  fun _ => (operandCount_write _).symm

theorem rdTtbr (n : Nat) (p : Sid) (i : BitVec 2) : Statement (.rdTtbr n p i) :=
  fun _ => (operandCount_read _).symm

theorem wrTtbr (n : Nat) (p : Sid) (i : BitVec 2) (val : Word) : Statement (.wrTtbr n p i val) :=
  fun _ => (operandCount_write _).symm

theorem rdUnlisted (n : Nat) (offset : BitVec 16) : Statement (.rdUnlisted n offset) :=
  fun _ => (operandCount_read _).symm

theorem wrUnlisted (n : Nat) (offset : BitVec 16) (val : Word) :
    Statement (.wrUnlisted n offset val) :=
  fun _ => (operandCount_write _).symm

theorem xlate (n : Nat) (sid : Sid) (wantR : Bool) (wantW : Bool) (iova : Quad) :
    Statement (.xlate n sid wantR wantW iova) :=
  have count : ∀ (q : Sid) (r w : Bool), 3 = operandCount
      ((((1#3 ++ 0#11) ++ BitVec.ofBool w) ++ BitVec.ofBool r) ++ q) := by decide
  fun _ => count sid wantR wantW

theorem invRun (n : Nat) : Statement (.invRun n) :=
  fun _ => (by decide : 1 = operandCount (2#3 ++ 0#17))

theorem reset (n : Nat) : Statement (.reset n) :=
  fun _ => (by decide : 1 = operandCount (3#3 ++ 0#17))

theorem resolve (n : Nat) (sid : Sid) : Statement (.resolve n sid) :=
  fun _ => (by decide : 2 = operandCount (internalDescriptor 0))

theorem walk (t0 : Word) (t1 : Word) (t2 : Word) (t3 : Word) (page : Quad) :
    Statement (.walk t0 t1 t2 t3 page) :=
  fun _ => (by decide : 6 = operandCount (internalDescriptor 1))

theorem tlbLookup (n : Nat) (psid : Sid) (page : Quad) : Statement (.tlbLookup n psid page) :=
  fun _ => (by decide : 4 = operandCount (internalDescriptor 2))

theorem tlbInsert (n : Nat) (psid : Sid) (page : Quad) (blockAddr : Quad) (perm : Perm) :
    Statement (.tlbInsert n psid page blockAddr perm) :=
  fun _ => (by decide : 7 = operandCount (internalDescriptor 3))

theorem tlbInvalidate (n : Nat) (sidMask : Quad) : Statement (.tlbInvalidate n sidMask) :=
  fun _ => (by decide : 3 = operandCount (internalDescriptor 4))

theorem tlbClearAll (n : Nat) : Statement (.tlbClearAll n) :=
  fun _ => (by decide : 1 = operandCount (internalDescriptor 5))

theorem faultLatch (n : Nat) (bits : Word) (addr : Quad) (psid : Sid) :
    Statement (.faultLatch n bits addr psid) :=
  fun _ => (by decide : 5 = operandCount (internalDescriptor 6))

theorem irqEval : Statement (.irqEval) :=
  fun _ => (by decide : 0 = operandCount (internalDescriptor 7))

end Sys2Proof.Laws.PacketLength
end

