-- ==== Sys2Proof/Tests/Slice0.lean ====
section
/-! SUPPORT. The model's own tests: well-formedness refuses each kind of ill-formed operation, words written out
from the spec's encoding decode, one small step an operation on the vectors of spec/95_test_vectors.md, and for each
statement with hypotheses a state and operands that meet them. -/

namespace Sys2Proof.Tests

open Sys2Proof.Machine
open Host (Outcome)

/-! ## Helpers -/

/-- What a next state shows under `f`; nothing when the outcome is not one. -/
def seen {α : Type} (f : State → α) : Outcome State Fault Refusal → Option α
  | .next s => some (f s)
  | .fault _ => none
  | .refused _ => none

/-- The reason of a refusal. -/
def refusal : Outcome State Fault Refusal → Option Refusal
  | .next _ => none
  | .fault _ => none
  | .refused r => some r

/-- An instance after reset, with one target set. -/
def fresh : Translating := Translating.reset 1

/-- The reset state with this instance as its only one. -/
def only (t : Translating) : State := { State.reset with insts := [.translating t] }

/-- The first instance of a state, if it is Translating, seen under `f`. -/
def at0 {α : Type} (f : Translating → α) (s : State) : Option α :=
  match (s.insts[0]? : Option Inst) with
  | some (.translating t) => some (f t)
  | some .companion => none
  | some .unknown => none
  | none => none

/-- The newest output. -/
def newest (s : State) : Option Output := s.history.head?

/-- 8 bytes of a 64-bit value, as `read_physical` returns them. -/
def bytes8 (v : Quad) : Bytes8 :=
  #v[byteOf v 0, byteOf v 1, byteOf v 2, byteOf v 3, byteOf v 4, byteOf v 5, byteOf v 6, byteOf v 7]

/-- 95 W1: two levels of tables, one leaf with read and write. -/
def tables : Quad → Option Bytes8 := fun a =>
  some (bytes8 (if a = 0x100000 then 0x200001 else if a = 0x200008 then 0x345001 else 0))

/-- 95 X1: SID 0 enabled, slot 0 valid. -/
def mapped : Translating :=
  { fresh with
    tcr := fresh.tcr.set 0 0x80
    ttbr := setTtbr fresh.ttbr 0 0 0x80000100 }

/-- `mapped` with two entries cached: read and write, and read only (95 P1 end state). -/
def filled : Translating :=
  { mapped with tlb := [(⟨0, 0x1⟩, ⟨0x345000, 3⟩), (⟨0, 0x2⟩, ⟨0x346000, 1⟩)] }

/-- 95 I1: an accepted invalidation of SID 1, with entries of SIDs 1 and 2 cached. -/
def busy : Translating :=
  { fresh with
    tlbOp := 0x00100104
    targetSets := [2]
    pendingInval := some 2
    tlb := [(⟨1, 0x1⟩, ⟨0x345000, 3⟩), (⟨2, 0x1⟩, ⟨0x345000, 3⟩)] }

/-- `busy` after T1. -/
def notifying (owed : List Sid) : Translating :=
  { busy with tlb := [(⟨2, 0x1⟩, ⟨0x345000, 3⟩)], task := some ⟨2, owed⟩ }

/-- The parameters with 16 KiB pages. -/
def params16 : Params := { Params.default with pageSize := .k16 }

/-- The memory of 95 W1 and X1, as stored by the memory collaborator. -/
def withTables (s : State) : State :=
  ((s.storeMem 0x100000 0x200001).storeMem 0x200008 0x345001).storeMem 0x200010 0x346081

/-- A request of SID 0 for one page, that wants to read. -/
def request : Request := ⟨0, 0, 0x1234, true, false, 0⟩

/-- A state with that request in flight in this phase, and its turn next. -/
def inFlight (t : Translating) (phase : Phase) : State :=
  { withTables (only t) with
    flights := [⟨0, .request request, 0x1, 0x80000100, phase⟩]
    nextTicket := 1 }

/-! ## Well-formedness refuses each kind of ill-formed operation -/

theorem test_wf_inst_number : (Instr.rdParams 4294967296).wellFormed Params.default = false := by
  decide

theorem test_wf_inst_number_max : (Instr.rdParams 4294967295).wellFormed Params.default = true := by
  decide

theorem test_wf_target_set : (Instr.wrTargetSetLo 0 1 0).wellFormed Params.default = false := by
  decide

theorem test_wf_unlisted_misaligned : (Instr.rdUnlisted 0 0x011).wellFormed Params.default = false := by
  decide

theorem test_wf_unlisted_outside :
    (Instr.rdUnlisted 0 0x300).wellFormed { Params.default with windowSize := 0x300 } = false := by
  decide

theorem test_wf_unlisted_is_register : (Instr.wrUnlisted 0 0x100 0).wellFormed Params.default = false := by
  decide

theorem test_wf_unlisted_is_target_set :
    (Instr.wrUnlisted 0 0x038 0).wellFormed Params.default = false := by
  decide

theorem test_wf_params_window : ¬ ({ Params.default with windowSize := 0x2FC } : Params).wf := by
  decide

theorem test_wf_params_window_large : ¬ ({ Params.default with windowSize := 0x10004 } : Params).wf := by
  decide

theorem test_wf_params_no_set : ¬ ({ Params.default with setOffsets := [] } : Params).wf := by decide

theorem test_wf_params_shared_offset :
    ¬ ({ Params.default with setOffsets := [(0x034, 0x034)] } : Params).wf := by decide

theorem test_wf_params_set_on_register :
    ¬ ({ Params.default with setOffsets := [(0x034, 0x040)] } : Params).wf :=
  fun h => absurd (h.2.2.2.2.2 0x040 (by decide)) (by decide)

theorem test_wf_params_set_misaligned :
    ¬ ({ Params.default with setOffsets := [(0x034, 0x036)] } : Params).wf :=
  fun h => absurd (h.2.2.2.2.2 0x036 (by decide)) (by decide)

theorem test_wf_params_default : Params.default.wf := by
  refine ⟨by decide, by decide, by decide, by decide, by decide, fun o ho => ?_⟩
  obtain rfl | rfl : o = 0x034 ∨ o = 0x038 := by
    simpa [Params.setWords, Params.default] using ho
  all_goals decide

/-! ## Decoding: words written out from 30_encoding R70 to R74 -/

/-- Class 0, `rw` = 0: the descriptor is the offset (95 P1 `D=0x00040`, `D=0x00054`, P2 `D=0x00020`). -/
theorem test_decode_reads :
    decode Params.default [0x00000, 0] = .ok (.rdParams 0) ∧
    decode Params.default [0x00020, 0] = .ok (.rdTlbOp 0) ∧
    decode Params.default [0x00034, 0] = .ok (.rdTargetSetLo 0 0) ∧
    decode Params.default [0x00038, 0] = .ok (.rdTargetSetHi 0 0) ∧
    decode Params.default [0x00040, 0] = .ok (.rdErrorStatus 0) ∧
    decode Params.default [0x00050, 0] = .ok (.rdErrorAddrLo 0) ∧
    decode Params.default [0x00054, 0] = .ok (.rdErrorAddrHi 0) ∧
    decode Params.default [0x00060, 0] = .ok (.rdConfig 0) ∧
    decode Params.default [0x0008C, 0] = .ok (.rdSidRemap 0 3) ∧
    decode Params.default [0x0013C, 0] = .ok (.rdTcr 0 15) ∧
    decode Params.default [0x002FC, 7] = .ok (.rdTtbr 7 15 3) ∧
    decode Params.default [0x00010, 0] = .ok (.rdUnlisted 0 0x010) := by decide

/-- Class 0, `rw` = 1: `0x10000` above the offset (95 P1 `D=0x10200`, P2 `D=0x10210`, P3 `D=0x10084`). -/
theorem test_decode_writes :
    decode Params.default [0x10000, 0, 1] = .ok (.wrParams 0 1) ∧
    decode Params.default [0x10020, 0, 2] = .ok (.wrTlbOp 0 2) ∧
    decode Params.default [0x10034, 0, 3] = .ok (.wrTargetSetLo 0 0 3) ∧
    decode Params.default [0x10038, 0, 4] = .ok (.wrTargetSetHi 0 0 4) ∧
    decode Params.default [0x10040, 0, 5] = .ok (.wrErrorStatus 0 5) ∧
    decode Params.default [0x10050, 0, 6] = .ok (.wrErrorAddrLo 0 6) ∧
    decode Params.default [0x10054, 0, 7] = .ok (.wrErrorAddrHi 0 7) ∧
    decode Params.default [0x10060, 0, 8] = .ok (.wrConfig 0 8) ∧
    decode Params.default [0x10084, 0, 9] = .ok (.wrSidRemap 0 1 9) ∧
    decode Params.default [0x1010C, 0, 10] = .ok (.wrTcr 0 3 10) ∧
    decode Params.default [0x10210, 0, 11] = .ok (.wrTtbr 0 1 0 11) ∧
    decode Params.default [0x10300, 0, 12] = .ok (.wrUnlisted 0 0x300 12) := by decide

/-- Class 1: `want_w` is bit 5, `want_r` bit 4 (95 P3 `D=0x20002`, P1 `D=0x20010`, `D=0x20020`). Classes 2 and 3
(95 P2 `D=0x40000`, P5 `D=0x60000`). -/
theorem test_decode_events :
    decode Params.default [0x20002, 0, 0x1000, 0] = .ok (.xlate 0 2 false false 0x1000) ∧
    decode Params.default [0x20010, 1, 0x1000, 0] = .ok (.xlate 1 0 true false 0x1000) ∧
    decode Params.default [0x20020, 0, 0x2010, 1] = .ok (.xlate 0 0 false true 0x100002010) ∧
    decode Params.default [0x2003F, 0, 0, 0] = .ok (.xlate 0 15 true true 0) ∧
    decode Params.default [0x40000, 0] = .ok (.invRun 0) ∧
    decode Params.default [0x60000, 3] = .ok (.reset 3) := by decide

/-- Class 7: the sub-code in bits 3..0 (30_encoding R73). -/
theorem test_decode_internal :
    decode Params.default [0xE0000, 0, 5] = .ok (.resolve 0 5) ∧
    decode Params.default [0xE0001, 1, 2, 3, 4, 0xA970FE, 0] = .ok (.walk 1 2 3 4 0xA970FE) ∧
    decode Params.default [0xE0002, 0, 2, 0x1, 0] = .ok (.tlbLookup 0 2 0x1) ∧
    decode Params.default [0xE0003, 0, 2, 0x1, 0, 0x345000, 0, 3] =
      .ok (.tlbInsert 0 2 0x1 0x345000 3) ∧
    decode Params.default [0xE0004, 0, 6, 0] = .ok (.tlbInvalidate 0 6) ∧
    decode Params.default [0xE0005, 0] = .ok (.tlbClearAll 0) ∧
    decode Params.default [0xE0006, 0, 8, 0x1234, 0, 2] = .ok (.faultLatch 0 8 0x1234 2) ∧
    decode Params.default [0xE0007] = .ok .irqEval := by decide

/-- 30_encoding R91: reserved classes and sub-codes, must-be-zero bits, alignment and the window. -/
theorem test_decode_refuses_reserved :
    decode Params.default [0x80000, 0] = .error .reservedClass ∧
    decode Params.default [0xC0000, 0] = .error .reservedClass ∧
    decode Params.default [0xE0008, 0] = .error .reservedSubcode ∧
    decode Params.default [0xE000F] = .error .reservedSubcode ∧
    decode Params.default [0xE0010, 0, 5] = .error .mustBeZero ∧
    decode Params.default [0x20042, 0, 0, 0] = .error .mustBeZero ∧
    decode Params.default [0x40001, 0] = .error .mustBeZero ∧
    decode Params.default [0x61000, 0] = .error .mustBeZero ∧
    decode Params.default [0x00022, 0] = .error .misaligned ∧
    decode { Params.default with windowSize := 0x300 } [0x00300, 0] = .error .outsideWindow := by
  decide

/-- Log 3: the shape of a packet. -/
theorem test_decode_refuses_shape :
    decode Params.default [] = .error .empty ∧
    decode Params.default [0x100020, 0] = .error .descriptorTooWide ∧
    decode Params.default [0x00020] = .error .operandCount ∧
    decode Params.default [0x10020, 0] = .error .operandCount ∧
    decode Params.default [0xE0000, 0, 16] = .error .operandTooWide := by decide

/-- Two target sets at offsets of a layout with `N_SETS` = 2 (30_encoding R74, D4). -/
theorem test_decode_two_sets :
    decode { Params.default with setOffsets := [(0x030, 0x034), (0x038, 0x03C)] } [0x1003C, 0, 9] =
      .ok (.wrTargetSetHi 0 1 9) := by decide

/-- The host's numbering: the descriptor is the low 20 bits, operands follow as zeros. -/
theorem test_decode_table_word :
    decodeTableWord 20 0x10228 = some (.wrTtbr 0 2 2 0) ∧
    decodeTableWord 24 0xE0001 = some (.walk 0 0 0 0 0) ∧
    decodeTableWord 24 0x80000 = none := by decide

/-! ## Word formats -/

/-- 95 V5, V7, V11. -/
theorem test_iova_split :
    slotOf .k4 (pageOf .k4 0xC0201ABC) = 3 ∧ levelIndex .k4 .one (pageOf .k4 0xC0201ABC) = 1 ∧
    levelIndex .k4 .two (pageOf .k4 0xC0201ABC) = 1 ∧
    pageOf .k4 0x100001000 = 0x100001 ∧ slotOf .k4 0x100001 = 0 ∧
    pageOf .k16 0x2A5C3F9ABC = 0xA970FE ∧ slotOf .k16 0xA970FE = 2 ∧
    levelIndex .k16 .one 0xA970FE = 0x52E ∧ levelIndex .k16 .two 0xA970FE = 0xFE := by decide

/-- 95 T10. -/
theorem test_packed_key : packedKey ⟨2, 0xA970FE⟩ = 0x0040000000A970FE := by decide

/-- 95 W1 to W5 and W8, W10: the walk as one function. -/
theorem test_walk_leaf_permissions :
    walkFrom .k4 tables 0x80000100 0x1 = .ok ⟨0x345000, 3⟩ ∧
    walkFrom .k4 tables 0x00000100 0x1 = .fault .ttbrInvalid ∧
    walkFrom .k4 tables 0x80000100 0x2 = .fault .pteInvalid ∧
    walkFrom .k4 (fun _ => none) 0x80000100 0x1 = .fault .levelReadError ∧
    ptePerm 0x345081 = 1 ∧ ptePerm 0x345101 = 2 ∧ ptePerm 0x345181 = 0 := by decide

/-- 95 W12 and W13: the largest base, and the bits that 16 KiB pages drop. -/
theorem test_walk_addresses :
    walkAddr .k4 .one (ttbrBase 0x8FFFFFFF) 0xC0201 = 0xFFFFFFF008 ∧
    walkAddr .k4 .two (pteAddr .k4 0xFFFFFFFFFFFFFFFF) 0xC0201 = 0xFFFFFF008 ∧
    walkAddr .k16 .one (ttbrBase 0x80000400) 0xA970FE = 0x402970 ∧
    walkAddr .k16 .two (pteAddr .k16 0x800001) 0xA970FE = 0x8007F0 ∧
    pteAddr .k16 0x123457101 = 0x123454000 ∧ ptePerm 0x123457101 = 2 := by decide

/-! ## One step an operation -/

/-- 95 CF6. -/
theorem test_rdParams : seen newest (exec (.rdParams 0) State.reset) = some (some (.readValue 0 0x0C000000)) := by
  decide

/-- 95 CF7. -/
theorem test_rdParams_16k :
    seen newest (exec (.rdParams 0) { State.reset with params := params16 }) =
      some (some (.readValue 0 0x0E000000)) := by decide

/-- 95 CF6. -/
theorem test_wrParams : seen (fun s => s) (exec (.wrParams 0 0xFFFFFFFF) State.reset) = some State.reset := by
  decide

/-- 95 P2 line 14. -/
theorem test_rdTlbOp :
    seen newest (exec (.rdTlbOp 0) (only busy)) = some (some (.readValue 0 0x00100104)) := by decide

/-- 95 I9: the other bits are dropped. -/
theorem test_wrTlbOp_accepts :
    seen (at0 fun t => (t.tlbOp, t.pendingInval))
      (exec (.wrTlbOp 0 0xFF1FF1FF) (only { fresh with targetSets := [2] })) =
    some (some (0x00100104, some 2)) := by decide

/-- 95 I2, I5, I6, I7, I8: nothing changes. -/
theorem test_wrTlbOp_ignores :
    seen (fun s => s) (exec (.wrTlbOp 0 0x00100100) (only busy)) = some (only busy) ∧
    seen (fun s => s) (exec (.wrTlbOp 0 0x00100100) (only fresh)) = some (only fresh) ∧
    seen (at0 (·.tlbOp)) (exec (.wrTlbOp 0 0x00100000) (only { fresh with targetSets := [2] })) =
      some (some 0) ∧
    seen (at0 (·.tlbOp)) (exec (.wrTlbOp 0 0x00200100) (only { fresh with targetSets := [2] })) =
      some (some 0) ∧
    seen (at0 (·.tlbOp)) (exec (.wrTlbOp 0 0x00000104) (only { fresh with targetSets := [2] })) =
      some (some 0) := by decide

theorem test_targetSet_reads :
    seen newest (exec (.rdTargetSetLo 0 0) (only { fresh with targetSets := [0x1122334455667788] })) =
      some (some (.readValue 0 0x55667788)) ∧
    seen newest (exec (.rdTargetSetHi 0 0) (only { fresh with targetSets := [0x1122334455667788] })) =
      some (some (.readValue 0 0x11223344)) := by decide

/-- 95 I3: a write while Busy changes the set and not the latched mask. -/
theorem test_wrTargetSetLo_busy :
    seen (at0 fun t => (t.targetSets, t.pendingInval)) (exec (.wrTargetSetLo 0 0 0xFFFF) (only busy)) =
    some (some ([0xFFFF], some 2)) := by decide

theorem test_wrTargetSetHi :
    seen (at0 (·.targetSets)) (exec (.wrTargetSetHi 0 0 1) (only busy)) = some (some [0x100000002]) := by
  decide

/-- 95 F2. -/
theorem test_fault_record_reads :
    (let s := only { fresh with faultStatus := 0x01, faultAddr := 0x2A5C3F9ABC, faultSid := 2 }
     seen newest (exec (.rdErrorStatus 0) s) = some (some (.readValue 0 0x02000001)) ∧
     seen newest (exec (.rdErrorAddrLo 0) s) = some (some (.readValue 0 0x5C3F9ABC)) ∧
     seen newest (exec (.rdErrorAddrHi 0) s) = some (some (.readValue 0 0x0000002A))) := by decide

/-- 95 F5: the status reads 0 whatever the SID. -/
theorem test_rdErrorStatus_clear :
    seen newest (exec (.rdErrorStatus 0) (only { fresh with faultSid := 3 })) =
      some (some (.readValue 0 0)) := by decide

/-- 95 F4 and F6. -/
theorem test_wrErrorStatus :
    seen (at0 fun t => (t.faultStatus, t.faultAddr))
      (exec (.wrErrorStatus 0 0x01) (only { fresh with faultStatus := 0x09, faultAddr := 0x1234 })) =
      some (some (0x08, 0x1234)) ∧
    seen (at0 (·.faultStatus)) (exec (.wrErrorStatus 0 0) (only { fresh with faultStatus := 0x04 })) =
      some (some 0x04) := by decide

/-- 95 F9. -/
theorem test_wrErrorAddr :
    seen (at0 (·.faultAddr)) (exec (.wrErrorAddrLo 0 0) (only { fresh with faultAddr := 0x1234 })) =
      some (some 0x1234) ∧
    seen (at0 (·.faultAddr)) (exec (.wrErrorAddrHi 0 0) (only { fresh with faultAddr := 0x1234 })) =
      some (some 0x1234) := by decide

/-- 95 CF10. -/
theorem test_config :
    seen newest (exec (.rdConfig 0) (only { fresh with config := 0x8000 })) =
      some (some (.readValue 0 0x8000)) ∧
    seen (at0 (·.config)) (exec (.wrConfig 0 0x8000) (only fresh)) = some (some 0x8000) := by decide

/-- 95 CF2. -/
theorem test_rdSidRemap :
    seen newest (exec (.rdSidRemap 0 1) State.reset) = some (some (.readValue 0 0x07060504)) := by decide

/-- 95 CF4: all eight bits of a remap byte are stored. -/
theorem test_wrSidRemap :
    seen (at0 fun t => (t.remap[0], t.remap[1], t.remap[2], t.remap[3], t.remap[4]))
      (exec (.wrSidRemap 0 0 0xF3E2D1C0) State.reset) =
      some (some (0xC0, 0xD1, 0xE2, 0xF3, 4)) := by decide

theorem test_rdTcr :
    seen newest (exec (.rdTcr 0 0) (only mapped)) = some (some (.readValue 0 0x80)) := by decide

/-- 95 CF8: row 3, all 32 bits. -/
theorem test_wrTcr :
    seen (at0 fun t => (t.tcr[2], t.tcr[3], t.tcr[4])) (exec (.wrTcr 0 3 0xFFFFFFFF) State.reset) =
      some (some (0, 0xFFFFFFFF, 0)) := by decide

theorem test_rdTtbr :
    seen newest (exec (.rdTtbr 0 0 0) (only mapped)) = some (some (.readValue 0 0x80000100)) := by decide

/-- 95 CF9: row 15, slot 3. -/
theorem test_wrTtbr :
    seen (at0 fun t => (t.ttbr[15][3], t.ttbr[15][2], t.ttbr[14][3]))
      (exec (.wrTtbr 0 15 3 0xFFFFFFFF) State.reset) = some (some (0xFFFFFFFF, 0, 0)) := by decide

/-- 95 CF11: the instance is as before, whatever the value. -/
theorem test_rdUnlisted :
    seen (fun s => (s.insts, s.mem, s.history.length)) (exec (.rdUnlisted 0 0x010) State.reset) =
      some (State.reset.insts, [], 1) := by decide

/-- 95 CF12. -/
theorem test_wrUnlisted :
    seen (fun s => s) (exec (.wrUnlisted 0 0x010 1) State.reset) = some State.reset := by decide

/-- 95 X3, once the entry is cached: a write to a read-only page is answered and recorded. -/
theorem test_xlate_hit :
    seen (fun s => (newest s, at0 (fun t => (t.faultStatus, t.faultAddr, t.faultSid)) s, s.irq))
      (exec (.xlate 0 0 false true 0x2010) (only filled)) =
    some (some (.xlate 0 ⟨some 0x346000, 1, 0xFFF⟩), some (0x08, 0x2010, 0), true) := by decide

/-- 95 X7 (Scenario B), and Scenario C: bypass records nothing, an invalid slot records `TTBR_INVALID`. -/
theorem test_xlate_no_access :
    seen (fun s => (newest s, at0 (·.faultStatus) s))
      (exec (.xlate 0 3 true false 0x2000) (only { fresh with tcr := fresh.tcr.set 3 0x180 })) =
      some (some (.xlate 0 ⟨none, 0, 0xFFF⟩), some 0) ∧
    seen (fun s => (newest s, at0 (fun t => (t.faultStatus, t.faultAddr)) s))
      (exec (.xlate 0 0 true false 0x40000000) (only mapped)) =
      some (some (.xlate 0 ⟨none, 0, 0xFFF⟩), some (0x01, 0x40000000)) := by decide

/-- 95 I4: the first step evicts the entries of SID 1. -/
theorem test_invRun_evicts :
    seen (at0 fun t => (t.tlb, t.task)) (exec (.invRun 0) (only busy)) =
      some (some ([(⟨2, 0x1⟩, ⟨0x345000, 3⟩)], some ⟨2, [1]⟩)) := by decide

/-- 95 I4: the last step clears `BUSY` and the opcode and keeps the selector. -/
theorem test_invRun_completes :
    seen (at0 fun t => (t.tlbOp, t.pendingInval, t.task)) (exec (.invRun 0) (only (notifying []))) =
      some (some (0x00000100, none, none)) := by decide

/-- 95 I11: both SIDs go, only the present one is notified. -/
theorem test_notifyList : notifyList { Params.default with sidPresent := 0x0002 } 0x6 = [1] := by decide

/-- 95 Z1, Z2. -/
theorem test_reset : seen (at0 fun t => t) (exec (.reset 0) (only busy)) = some (some fresh) := by decide

/-- 95 CF5. -/
theorem test_resolve :
    seen newest (exec (.resolve 0 1) (only { fresh with remap := (fresh.remap.set 1 2).set 2 3 })) =
      some (some (.resolved 2)) := by decide

/-- 95 W6 and W1: slot 1 is invalid; slot 0 starts a walk at its base. -/
theorem test_walk :
    seen newest (exec (.walk 0x80000100 0 0 0 0x40000) State.reset) =
      some (some (.walk 0 (.fault .ttbrInvalid))) ∧
    seen (fun s => s.flights.map (·.phase)) (exec (.walk 0x80000100 0 0 0 0x1) State.reset) =
      some [.reading .one 0x100000] := by decide

/-- 95 T3. -/
theorem test_tlbLookup :
    seen newest (exec (.tlbLookup 0 0 0x1) (only filled)) = some (some (.lookup (some ⟨0x345000, 3⟩))) ∧
    seen newest (exec (.tlbLookup 0 0 0x100001) (only filled)) = some (some (.lookup none)) := by decide

/-- 95 T2. -/
theorem test_tlbInsert :
    seen (at0 (·.tlb)) (exec (.tlbInsert 0 0 0x1 0x345000 3) (only fresh)) =
      some (some [(⟨0, 0x1⟩, ⟨0x345000, 3⟩)]) := by decide

/-- 95 T4 and T6. -/
theorem test_tlbInvalidate :
    seen (at0 (·.tlb)) (exec (.tlbInvalidate 0 0x2) (only busy)) =
      some (some [(⟨2, 0x1⟩, ⟨0x345000, 3⟩)]) ∧
    seen (at0 (·.tlb)) (exec (.tlbInvalidate 0 0xFFFFFFFFFFFF0000) (only busy)) =
      some (some busy.tlb) := by decide

/-- 95 T9. -/
theorem test_tlbClearAll : seen (at0 (·.tlb)) (exec (.tlbClearAll 0) (only filled)) = some (some []) := by
  decide

/-- 95 F3. -/
theorem test_faultLatch :
    seen (at0 fun t => (t.faultStatus, t.faultAddr, t.faultSid))
      (exec (.faultLatch 0 0x08 0x1234 0)
        (only { fresh with faultStatus := 0x01, faultAddr := 0x2A5C3F9ABC, faultSid := 2 })) =
      some (some (0x09, 0x1234, 0)) := by decide

/-- 95 F10. -/
theorem test_irqEval :
    seen newest (exec .irqEval { State.reset with
      insts := [.translating fresh, .companion, .translating { fresh with faultStatus := 0x10 }] }) =
      some (some (.irq true)) ∧
    seen newest (exec .irqEval State.reset) = some (some (.irq false)) := by decide

/-! ## Steps of a request in flight -/

/-- 95 W1, W7: one read, at level 1. -/
theorem test_flight_reads :
    seen (fun s => (newest s, s.flights.map (·.phase))) (step (inFlight mapped (.reading .one 0x100000))) =
      some (some (.readPhysical 0x100000 (some (bytes8 0x200001))), [.reading .two 0x200000]) ∧
    seen (fun s => s.flights.map (·.phase))
      (step ((inFlight mapped (.reading .one 0x100000)).failMem 0x100000)) =
      some [.done (.fault .levelReadError)] := by decide

/-- 95 X1, the end of the request: the entry is inserted and answered. -/
theorem test_flight_ends :
    seen (fun s => (newest s, s.flights.length)) (step (inFlight mapped (.done (.ok ⟨0x345000, 3⟩)))) =
      some (some (.xlate 0 ⟨some 0x345000, 3, 0xFFF⟩), 0) ∧
    seen (at0 fun t => (t.tlb, t.faultStatus)) (step (inFlight mapped (.done (.ok ⟨0x345000, 3⟩)))) =
      some (some ([(⟨0, 0x1⟩, ⟨0x345000, 3⟩)], 0)) := by decide

/-- 43 R144: another request's entry is used, not replaced. -/
theorem test_flight_meets_entry :
    seen (fun s => (newest s, at0 (·.tlb) s)) (step (inFlight filled (.done (.ok ⟨0x999000, 3⟩)))) =
      some (some (.xlate 0 ⟨some 0x345000, 3, 0xFFF⟩), some filled.tlb) := by decide

/-! ## The stops -/

theorem test_refusals :
    refusal (exec (.rdTcr 1 0) State.reset) = some (.noInstance 1) ∧
    refusal (exec (.reset 0) { State.reset with insts := [.companion] }) = some (.notTranslating 0) ∧
    refusal (exec (.invRun 0) State.reset) = some (.taskNotQueued 0) ∧
    refusal (exec (.xlate 0 5 true false 0)
      { State.reset with params := { Params.default with sidPresent := 0xFFDF } }) = some (.absentSid 5) ∧
    refusal (step { State.reset with inputs := [.event [0xE0007]] }) = some .internalFromOutside ∧
    refusal (step { State.reset with inputs := [.internal [0x60000, 0]] }) =
      some .externalOnInternalPort ∧
    refusal (step { State.reset with inputs := [.event [0x80000]] }) =
      some (.undecodable .reservedClass) ∧
    refusal (step { State.reset with turns := [.request 4] }) = some (.noSuchRequest 4) ∧
    refusal (step { State.reset with turns := [.input] }) = some .noInput := by decide

/-! ## A state and operands that meet the hypotheses of each statement

Statements whose only hypothesis is a Translating instance share `witness_translating`. -/

theorem witness_translating : State.reset.insts[0]? = some (.translating fresh) := by decide

theorem witness_EncodeThenDecode :
    Params.default.wf ∧ (Instr.wrTargetSetHi 4294967295 0 0xFFFFFFFF).wellFormed Params.default = true ∧
      (Instr.rdUnlisted 0 0xFFFC).wellFormed Params.default = true :=
  ⟨test_wf_params_default, by decide, by decide⟩

theorem witness_DecodeThenEncode : decode Params.default [0x2003F, 5, 1, 0xFFFFFFFF] =
    .ok (.xlate 5 15 true true 0xFFFFFFFF00000001) := by decide

/-- A descriptor for each clause, at a boundary of its range. -/
theorem witness_UnspelledEventRefused :
    (0x80000 : BitVec 20).extractLsb' 17 3 = 4 ∧ (0xBFFFF : BitVec 20).extractLsb' 17 3 = 5 ∧
    (0xC0000 : BitVec 20).extractLsb' 17 3 = 6 ∧
    ((0x10003 : BitVec 20).extractLsb' 17 3 = 0 ∧ (0x10003 : BitVec 20).extractLsb' 0 2 ≠ 0) ∧
    ((0x00300 : BitVec 20).extractLsb' 17 3 = 0 ∧
      ({ Params.default with windowSize := 0x300 } : Params).windowSize
        ≤ ((0x00300 : BitVec 20).extractLsb' 0 16).toNat) ∧
    ((0x20040 : BitVec 20).extractLsb' 17 3 = 1 ∧ (0x20040 : BitVec 20).extractLsb' 6 11 ≠ 0) ∧
    ((0x50000 : BitVec 20).extractLsb' 17 3 = 2 ∧ (0x50000 : BitVec 20).extractLsb' 0 17 ≠ 0) ∧
    ((0x60001 : BitVec 20).extractLsb' 17 3 = 3 ∧ (0x60001 : BitVec 20).extractLsb' 0 17 ≠ 0) ∧
    ((0xE0010 : BitVec 20).extractLsb' 17 3 = 7 ∧ (0xE0010 : BitVec 20).extractLsb' 4 13 ≠ 0) ∧
    ((0xE0008 : BitVec 20).extractLsb' 17 3 = 7 ∧
      8 ≤ ((0xE0008 : BitVec 20).extractLsb' 0 4).toNat) := by decide

/-- A packet on the outside port, on the internal port, and an internal one on the outside port. -/
theorem witness_StepRunsDecodedOperation :
    nextTurn { State.reset with inputs := [.event [0x60000, 0]] } = .input ∧
    decode Params.default [0x60000, 0] = .ok (.reset 0) ∧ (Instr.reset 0).isInternal = false ∧
    nextTurn { State.reset with inputs := [.internal [0xE0007]] } = .input ∧
    decode Params.default [0xE0007] = .ok .irqEval ∧ Instr.irqEval.isInternal = true ∧
    nextTurn { State.reset with inputs := [.event [0xE0007]] } = .input := by decide

theorem witness_NonTranslatingRefused :
    (Instr.rdParams 0).target = some 0 ∧ ([.companion, .unknown] : List Inst)[0]? = some .companion ∧
    (Instr.reset 1).target = some 1 ∧ ([.companion, .unknown] : List Inst)[1]? = some .unknown ∧
    (Instr.invRun 2).target = some 2 ∧ ([.companion, .unknown] : List Inst)[2]? = none := by decide

theorem witness_TargetSetHalvesReadAndWrite :
    (only busy).insts[0]? = some (.translating busy) ∧ busy.targetSets[0]? = some 2 := by decide

/-- The mask of 95 I1, whose bit 1 the only target set has. -/
theorem witness_WrTlbOpAcceptsInvalidate :
    let t := { fresh with targetSets := [2] }
    (only t).insts[0]? = some (.translating t) ∧ t.tlbOp.getLsbD 2 = false ∧
    (0x00100100 : Word).extractLsb' 20 4 = 1 ∧ (2 : Quad) ≠ 0 ∧
    ∀ b < 64, (2 : Quad).getLsbD b = true ↔ ∃ (k : Nat) (x : Quad), t.targetSets[k]? = some x ∧
      (0x00100100 : Word).getLsbD (8 + k) = true ∧ x.getLsbD b = true := by
  refine ⟨rfl, by decide, by decide, by decide, fun b _ => ⟨fun h => ⟨0, 2, rfl, by decide, h⟩, ?_⟩⟩
  rintro ⟨k, x, hk, _, hx⟩
  cases k with
  | zero =>
    cases hk
    exact hx
  | succ k => cases hk

/-- Busy; another opcode; a selected set that is zero. -/
theorem witness_WrTlbOpOtherwiseIgnored :
    busy.tlbOp.getLsbD 2 = true ∧ (0x00200100 : Word).extractLsb' 20 4 ≠ 1 ∧
    ∀ (k : Nat) (x : Quad), fresh.targetSets[k]? = some x →
      (0x00100100 : Word).getLsbD (8 + k) = true → x = 0 := by
  refine ⟨by decide, by decide, fun k x hk _ => ?_⟩
  cases k with
  | zero =>
    cases hk
    rfl
  | succ k => cases hk

theorem witness_InvRunEvictsFirst :
    (only busy).insts[0]? = some (.translating busy) ∧ busy.pendingInval = some 2 ∧ busy.task = none ∧
    ∀ (m : Nat) (i : Inst), m ≠ 0 → (only busy).insts[m]? = some i → i.running = false := by
  refine ⟨rfl, rfl, rfl, fun m i hm hi => ?_⟩
  cases m with
  | zero => exact absurd rfl hm
  | succ m => cases hi

/-- One SID owed, and none. -/
theorem witness_InvRunNotifiesThenCompletes :
    (only (notifying [1])).insts[0]? = some (.translating (notifying [1])) ∧
    (notifying [1]).pendingInval = some 2 ∧ (notifying [1]).task = some ⟨2, [1]⟩ ∧
    (only (notifying [])).insts[0]? = some (.translating (notifying [])) ∧
    (notifying []).pendingInval = some 2 ∧ (notifying []).task = some ⟨2, []⟩ := by decide

/-- No task queued; a task queued while another instance's is between its steps. -/
theorem witness_InvRunRefusedWhenNotEnabled :
    fresh.pendingInval = none ∧ busy.pendingInval ≠ none ∧ busy.task = none ∧
    ∃ (m : Nat) (i : Inst), m ≠ 0 ∧
      ([.translating busy, .translating (notifying [1])] : List Inst)[m]? = some i ∧
      i.running = true := by
  refine ⟨by decide, by decide, by decide, 1, _, by decide, rfl, by decide⟩

theorem witness_InvalidationRunsToCompletion :
    (only busy).insts[0]? = some (.translating busy) ∧ busy.pendingInval = some 2 ∧ busy.task = none ∧
    (∀ (m : Nat) (i : Inst), (only busy).insts[m]? = some i → i.running = false) ∧
    (only busy).turns = [] ∧ (only busy).flights = [] := by
  refine ⟨rfl, rfl, rfl, fun m i hi => ?_, rfl, rfl⟩
  cases m with
  | zero =>
    cases hi
    rfl
  | succ m => cases hi

/-- T3, and a `RESET` while Busy. -/
theorem witness_BusyEndsOnlyByCompletionOrReset :
    seen (at0 fun t => opBusy t.tlbOp) (step { only (notifying []) with turns := [.task 0] }) =
      some (some false) ∧ opBusy (notifying []).tlbOp = true ∧
    seen (at0 fun t => opBusy t.tlbOp) (step { only busy with inputs := [.event [0x60000, 0]] }) =
      some (some false) ∧ opBusy busy.tlbOp = true ∧
    nextTurn { only busy with inputs := [.event [0x60000, 0]] } = .input := by decide

theorem witness_BusyBeginsOnlyByAcceptedWrite :
    seen (at0 fun t => opBusy t.tlbOp) (step { only { fresh with targetSets := [2] } with
      inputs := [.event [0x10020, 0, 0x00100100]] }) = some (some true) ∧
    opBusy fresh.tlbOp = false ∧
    nextTurn { only { fresh with targetSets := [2] } with
      inputs := [.event [0x10020, 0, 0x00100100]] } = .input := by decide

theorem witness_AcknowledgeIdiomLosesNoKind : (0x1F : Word) &&& ~~~ faultAll = 0 := by decide

/-- A write that clears, and a `RESET`. -/
theorem witness_FaultBitsClearedOnlyByAckOrReset :
    seen (at0 (·.faultStatus)) (step { only { fresh with faultStatus := 0x09 } with
      inputs := [.event [0x10040, 0, 0x01]] }) = some (some 0x08) ∧
    seen (at0 (·.faultStatus)) (step { only { fresh with faultStatus := 0x09 } with
      inputs := [.event [0x60000, 0]] }) = some (some 0) ∧
    nextTurn { only { fresh with faultStatus := 0x09 } with inputs := [.event [0x60000, 0]] } = .input ∧
    (0x09 : Word) &&& ~~~ 0x08 ≠ 0 := by decide

/-- A request of the instance in flight, and an `XLATE` event for it. -/
theorem witness_FaultsRaisedOnlyByTranslation :
    seen (at0 (·.faultStatus)) (step (inFlight mapped (.done (.fault .pteInvalid)))) = some (some 0x04) ∧
    seen (at0 (·.faultStatus)) (step { only mapped with
      inputs := [.event [0x20010, 0, 0x40000000, 0]] }) = some (some 0x01) ∧
    (Input.event [0x20010, 0, 0x40000000, 0]).fromOutside = true ∧ mapped.faultStatus = 0 ∧
    nextTurn (inFlight mapped (.done (.fault .pteInvalid))) = .request 0 ∧
    (inFlight mapped (.done (.fault .pteInvalid))).flights.map (fun f => (f.ticket, f.purpose)) =
      [(0, .request request)] ∧ request.inst = 0 ∧
    nextTurn { only mapped with inputs := [.event [0x20010, 0, 0x40000000, 0]] } = .input := by decide

theorem witness_TlbLookupAnswersKey :
    (only filled).insts[0]? = some (.translating filled) ∧ Rising tlbRank filled.tlb := by decide

theorem witness_TlbInsertSetsKey :
    (only busy).insts[0]? = some (.translating busy) ∧ Rising tlbRank busy.tlb := by decide

theorem witness_HighMaskBitsNameNothing : (0xFFFFFFFFFFFF0000 : Quad).extractLsb' 0 16 = 0 := by decide

/-- T1 of the task, and a `RESET`. -/
theorem witness_EntriesLeaveOnlyByInvalidation :
    seen (at0 fun t => tlbFind t.tlb 1 0x1) (step { only busy with turns := [.task 0] }) =
      some (some none) ∧
    seen (at0 fun t => tlbFind t.tlb 1 0x1) (step { only busy with inputs := [.event [0x60000, 0]] }) =
      some (some none) ∧
    tlbFind busy.tlb 1 0x1 = some ⟨0x345000, 3⟩ ∧
    nextTurn { only busy with inputs := [.event [0x60000, 0]] } = .input := by decide

/-- Slot 3 under each page size, not valid and valid. -/
theorem witness_WalkStartsAtSelectedSlot :
    ([0, 0, 0, 5] : List Word)[(0xC0000 : Quad).toNat / 262144 % 4]? = some 5 ∧
    (5 : Word).getLsbD 31 = false ∧
    ([0, 0, 0, 0x80000100] : List Word)[(0xC00000 : Quad).toNat / 4194304 % 4]? = some 0x80000100 ∧
    (0x80000100 : Word).getLsbD 31 = true := by decide

/-- A failed read, a clear valid bit, and a valid entry at level 1 and at level 2. -/
theorem witness_WalkTurnReadsOneLevel :
    let f : Flight := ⟨0, .request request, 0x1, 0x80000100, .reading .two 0x200000⟩
    let s := inFlight mapped (.reading .two 0x200000)
    nextTurn s = .request f.ticket ∧ s.flights = [f] ∧ (s.flights.map Flight.ticket).Nodup ∧
    (0x200000 : Quad) + 8 * BitVec.ofNat 64 (f.page.toNat % 512) = 0x200008 ∧
    readPhysical s.mem s.holes 0x200008 = some (bytes8 0x345001) ∧
    (le64 (bytes8 0x345001)).getLsbD 0 = true ∧
    readPhysical s.mem s.holes 0x100000 = some (bytes8 0x200001) ∧
    (le64 (bytes8 0x200001)).getLsbD 0 = true ∧
    readPhysical s.mem s.holes 0x200018 = some (bytes8 0) ∧ (le64 (bytes8 0)).getLsbD 0 = false ∧
    readPhysical (s.failMem 0x200008).mem (s.failMem 0x200008).holes 0x200008 = none := by decide

/-- 95 W11. -/
theorem witness_WalkIgnoresHighPageBits :
    ∀ b < 20, (0x1 : Quad).getLsbD b = (0x100001 : Quad).getLsbD b := by decide

/-- An address outside the eight bytes, which wrap here; eight bytes that share one with them, and eight that
share none; a step that takes each of the two inputs. -/
theorem witness_StoredEntryReadsBack :
    (∀ j < 8, (4 : Nat) ≠ (0xFFFFFFFFFFFFFFFC + BitVec.ofNat 64 j : Quad).toNat) ∧
    (∃ i < 8, ∃ j < 8,
      (0x3 : Quad) + BitVec.ofNat 64 i = 0xFFFFFFFFFFFFFFFC + BitVec.ofNat 64 j) ∧
    (∀ i < 8, ∀ j < 8,
      (0x4 : Quad) + BitVec.ofNat 64 i ≠ 0xFFFFFFFFFFFFFFFC + BitVec.ofNat 64 j) ∧
    nextTurn { only mapped with inputs := [.mem64 0x200008 0x999001] } = .input ∧
    nextTurn { only mapped with inputs := [.memFail 0x200008] } = .input := by decide

/-- 95 P3 lines 8 to 10: a failed entry, and the same entry readable again once stored. -/
theorem test_memFail_mem64 :
    seen (fun s => readPhysical s.mem s.holes 0x402970)
      (step { only mapped with inputs := [.memFail 0x402970] }) = some none ∧
    seen (fun s => readPhysical s.mem s.holes 0x402970)
      (step { (only mapped).failMem 0x402970 with inputs := [.mem64 0x402970 0x800000] }) =
      some (some (bytes8 0x800000)) := by decide

/-- The controller's bypass mask; `EN` = 0; `BYPASS` = 1. -/
theorem witness_BypassedXlateGrantsNothing :
    (0xFFFF : BitVec 16).getLsbD (15 : Sid).toNat = true ∧ fresh.remap[15]? = some 15 ∧
    (15 : Sid) = (15 : Byte).setWidth 4 ∧
    (0x8000 : BitVec 16).getLsbD (15 : Sid).toNat = true ∧
    fresh.tcr[15]? = some 0 ∧ (0 : Word).getLsbD 7 = false ∧ (0x180 : Word).getLsbD 8 = true := by decide

/-- A direction the entry lacks, and none. -/
theorem witness_XlateHitAnnotates :
    (only filled).insts[0]? = some (.translating filled) ∧
    (0xFFFF : BitVec 16).getLsbD (0 : Sid).toNat = true ∧ filled.remap[0]? = some 0 ∧
    (0 : Sid) = (0 : Byte).setWidth 4 ∧ filled.tcr[0]? = some 0x80 ∧
    (0 : BitVec 16).getLsbD (0 : Sid).toNat = false ∧ (0x80 : Word).getLsbD 7 = true ∧
    (0x80 : Word).getLsbD 8 = false ∧
    tlbFind filled.tlb 0 ((0x2FFF : Quad) >>> 12) = some ⟨0x346000, 1⟩ ∧
    (if true = true ∧ (1 : Perm).getLsbD 1 = false then (0x08 : Word) else 0) |||
      (if true = true ∧ (1 : Perm).getLsbD 0 = false then 0x10 else 0) = (0x08 : Word) ∧
    (if false = true ∧ (1 : Perm).getLsbD 1 = false then (0x08 : Word) else 0) |||
      (if true = true ∧ (1 : Perm).getLsbD 0 = false then 0x10 else 0) = (0 : Word) := by decide

/-- A miss on slot 0, which is valid, and on slot 3, which is not. -/
theorem witness_XlateMissStartsWalk :
    tlbFind mapped.tlb 0 ((0x1000 : Quad) >>> 12) = none ∧
    mapped.ttbr[0]? = some #v[0x80000100, 0, 0, 0] ∧
    (#v[0x80000100, 0, 0, 0] : Vector Word 4)[(0x1000 : Quad).toNat / 1073741824 % 4]?
      = some 0x80000100 ∧ (0x80000100 : Word).getLsbD 31 = true ∧
    tlbFind mapped.tlb 0 ((0xFFFFFFFF : Quad) >>> 12) = none ∧
    (#v[0x80000100, 0, 0, 0] : Vector Word 4)[(0xFFFFFFFF : Quad).toNat / 1073741824 % 4]?
      = some 0 ∧ (0 : Word).getLsbD 31 = false := by decide

theorem witness_AbsentPortOrSetRefused :
    (0x7FFF : BitVec 16).getLsbD (15 : Sid).toNat = false ∧ fresh.targetSets[1]? = none := by decide

/-- A failed walk; a successful one whose key is still absent; one whose key another request inserted. -/
theorem witness_RequestEndsInSectionTwo :
    (let s := inFlight mapped (.done (.fault .levelReadError))
     nextTurn s = .request 0 ∧ (s.flights.map Flight.ticket).Nodup ∧
     s.insts[request.inst]? = some (.translating mapped)) ∧
    (0x1 : Quad) = request.iova >>> 12 ∧
    (let s := inFlight mapped (.done (.ok ⟨0x345000, 3⟩))
     nextTurn s = .request 0 ∧ tlbFind mapped.tlb 0 0x1 = none) ∧
    (let s := inFlight filled (.done (.ok ⟨0x999000, 3⟩))
     nextTurn s = .request 0 ∧ tlbFind filled.tlb 0 0x1 = some ⟨0x345000, 3⟩) := by decide

theorem witness_XlateRunsAsItsPseudocode :
    (withTables (only mapped)).insts[0]? = some (.translating mapped) ∧
    (0xFFFF : BitVec 16).getLsbD (0 : Sid).toNat = true ∧ (withTables (only mapped)).turns = [] ∧
    (withTables (only mapped)).flights = [] := by decide

/-- 95 X1, then the same request. -/
theorem witness_SecondRequestServedFromCache :
    let s := withTables (only mapped)
    let out := xlateAlone s.params (readPhysical s.mem s.holes) mapped request
    out.2.translated = some 0x345000 ∧ request.psid = resolveSid mapped.remap request.sid ∧
    request.inst = 0 ∧ out.1.tlb = [(⟨0, 0x1⟩, ⟨0x345000, 3⟩)] := by decide

/-- Bypassed, and not. -/
theorem witness_EvictedStreamWalksAgain :
    (0x1 : Quad).getLsbD request.psid.toNat = true ∧
    bypassApplies Params.default fresh request.psid = true ∧
    bypassApplies Params.default mapped request.psid = false := by decide

theorem witness_LateInsertSurvivesInvalidation :
    let t := { filled with tlbOp := 0x00100104, targetSets := [1], pendingInval := some 1 }
    let s := { inFlight t (.done (.ok ⟨0x999000, 3⟩)) with turns := [.task 0, .request 0] }
    s.insts[0]? = some (.translating t) ∧ t.pendingInval = some 1 ∧ t.task = none ∧
    (∀ (m : Nat) (i : Inst), s.insts[m]? = some i → i.running = false) ∧
    s.flights = [⟨0, .request request, 0x1, 0x80000100, .done (.ok ⟨0x999000, 3⟩)⟩] ∧
    (1 : Quad).getLsbD request.psid.toNat = true := by
  refine ⟨rfl, rfl, rfl, fun m i hi => ?_, rfl, by decide⟩
  cases m with
  | zero =>
    cases hi
    rfl
  | succ m => cases hi

/-- Two instances that differ in another row and in another SID's entries. -/
theorem witness_XlateUsesOnlyItsPhysicalRow :
    let u := { mapped with
      tcr := mapped.tcr.set 1 0x80, tlb := [(⟨1, 0x1⟩, ⟨0x345000, 3⟩)], config := 0x8000 }
    mapped.tcr[0]? = u.tcr[0]? ∧ mapped.ttbr[0]? = u.ttbr[0]? ∧
    (∀ page, tlbFind mapped.tlb 0 page = tlbFind u.tlb 0 page) ∧
    mapped.faultStatus = u.faultStatus ∧ mapped.faultAddr = u.faultAddr ∧
    mapped.faultSid = u.faultSid := by
  refine ⟨by decide, rfl, fun page => ?_, rfl, rfl, rfl⟩
  simp [tlbFind, mapFind, mapped, fresh, Translating.reset]

/-- The step that receives the request, and a step of it. -/
theorem witness_TranslationWritesOnlyCacheAndFaults :
    seen (at0 (·.faultStatus)) (exec (.xlate 0 0 false true 0x2010) (only filled)) = some (some 0x08) ∧
    seen (at0 (·.tlb)) (requestStep 0 (inFlight mapped (.done (.ok ⟨0x345000, 3⟩)))) =
      some (some [(⟨0, 0x1⟩, ⟨0x345000, 3⟩)]) := by decide

theorem witness_EveryStreamBypassedAfterReset :
    seen (at0 fun t => t) (exec (.reset 0) (only filled)) = some (some fresh) ∧
    Params.default.sidPresent.getLsbD (15 : Sid).toNat = true := by decide

/-- A state with a request in flight and a deferred task between its steps. -/
def working : State :=
  { inFlight { notifying [1] with
      tcr := mapped.tcr
      ttbr := mapped.ttbr } (.reading .two 0x200000) with inputs := [.event [0x20010, 0, 0x1000, 0]] }

theorem working_inst : InstOk Params.default { notifying [1] with
    tcr := mapped.tcr
    ttbr := mapped.ttbr } where
  status := by decide
  busy := by decide
  opBits := by decide
  idleOpcode := by decide
  sets := by decide
  cache := by decide
  entries x hx := by
    obtain rfl : x = (⟨2, 0x1⟩, ⟨0x345000, 3⟩) := by simpa [notifying] using hx
    exact ⟨by unfold EntryOk; decide, by unfold PageOk; decide⟩
  mask m hm := by
    cases hm
    decide
  task k hk := by
    cases hk
    exact ⟨rfl, by decide⟩

theorem working_inv : Inv working where
  params := test_wf_params_default
  insts n t ht := by
    cases n with
    | zero =>
      cases ht
      exact working_inst
    | succ n => cases ht
  flights f hf := by
    obtain rfl : f = ⟨0, .request request, 0x1, 0x80000100, .reading .two 0x200000⟩ := by
      simpa [working, inFlight] using hf
    refine ⟨by unfold PhaseOk; decide, by decide, fun r hr => ?_⟩
    cases hr
    exact ⟨by decide, _, rfl⟩
  tickets := by decide
  memory := by decide
  holes := by decide
  loop n m i j hi hj _ _ := by
    cases n with
    | zero =>
      cases m with
      | zero => rfl
      | succ m => cases hj
    | succ n => cases hi
  outside x hx := by
    obtain rfl : x = .event [0x20010, 0, 0x1000, 0] := by simpa [working] using hx
    rfl

theorem witness_StepKeepsInvariant :
    Inv working ∧ (seen (fun s => s.flights.length) (step working)).isSome = true :=
  ⟨working_inv, by decide⟩

theorem witness_ConstructionNeverChanges :
    (seen (fun s => s.flights.length) (step working)).isSome = true := by decide

/-- An operation, a step of a request, and a step of a deferred task. -/
theorem witness_EngineNeverWritesMemory :
    (seen newest (exec .irqEval working)).isSome = true ∧
    (seen newest (requestStep 0 working)).isSome = true ∧
    (seen newest (taskStep 0 working)).isSome = true := by decide

/-- An operation that leaves what is in flight, and one that starts a walk. -/
theorem witness_OperationsTouchOnlyTheirInstance :
    seen (fun s => s.flights.length) (exec (.wrTcr 0 1 0x80) working) = some 1 ∧
    seen (fun s => s.flights.length) (exec (.xlate 0 0 true false 0x7000) working) = some 2 := by decide

/-- A step that reads memory, and two that notify: a turn of the task, and an `INV.RUN` event. -/
theorem witness_CollaboratorCallsHaveOneSource :
    seen newest (step working) = some (some (.readPhysical 0x200008 (some (bytes8 0x345001)))) ∧
    seen newest (step { working with turns := [.task 0] }) =
      some (some (.notifyUnmap 0 1 0 4294967296)) ∧
    seen newest (step { working with turns := [.input], inputs := [.event [0x40000, 0]] }) =
      some (some (.notifyUnmap 0 1 0 4294967296)) := by decide

/-- `working` with nothing left to receive. -/
theorem witness_MachineComesToRest :
    Inv { working with inputs := [] } ∧ ({ working with inputs := [] } : State).turns = [] ∧
      ({ working with inputs := [] } : State).flights.length = 1 :=
  ⟨{ working_inv with
      flights := fun f hf =>
        have ok := working_inv.flights f hf
        ⟨ok.phase, ok.issued, ok.request⟩
      outside := fun _ hx => absurd hx (by simp) }, rfl, rfl⟩

/-- A bare walk whose result is there, after a slot that is valid; and its closing step (40 R102). -/
theorem witness_BareWalkAnswersItsResult :
    let f : Flight := ⟨0, .bareWalk, 0x1, 0x80000100, .done (.ok ⟨0x345000, 3⟩)⟩
    let s := { withTables (only mapped) with flights := [f], nextTicket := 1 }
    nextTurn s = .request f.ticket ∧ f ∈ s.flights ∧ (s.flights.map Flight.ticket).Nodup ∧
    seen newest (step s) = some (some (.walk 0 (.ok ⟨0x345000, 3⟩))) ∧
    (withTables (only mapped)).turns = [] ∧ (withTables (only mapped)).flights = [] := by decide

end Sys2Proof.Tests
end

section
/-! What a step of the engine leaves alone: a frame shared by every operation, every step of a request and
every step of a deferred task. -/

namespace Sys2Proof.Machine

/-- The frame of a step of the engine: parameters, memory, readability, inputs and turns are kept, and so are
the instances, but for new state of the Translating instance `target`. -/
structure EngineFrame (target : Option Nat) (s s' : State) : Prop where
  params : s'.params = s.params
  mem    : s'.mem = s.mem
  holes  : s'.holes = s.holes
  inputs : s'.inputs = s.inputs
  turns  : s'.turns = s.turns
  insts  : s'.insts = s.insts ∨ ∃ n t u, target = some n ∧
    s.insts[n]? = some (.translating t) ∧ s'.insts = s.insts.set n (.translating u)

section Frame

variable {target : Option Nat} {n : Nat} {s s' : State} {t : Translating}

theorem EngineFrame.refl (target : Option Nat) (s : State) : EngineFrame target s s :=
  ⟨rfl, rfl, rfl, rfl, rfl, .inl rfl⟩

/-- The flights, the history and the two counters stand outside the frame. -/
theorem EngineFrame.bookkeeping (h : EngineFrame target s s') (flights : List Flight)
    (history : List Output) (nextTicket freeCount : Nat) :
    EngineFrame target s { s' with flights, history, nextTicket, freeCount } := { h with }

theorem EngineFrame.emit (h : EngineFrame target s s') (o : Output) :
    EngineFrame target s (s'.emit o) := h.bookkeeping _ _ _ _

theorem EngineFrame.setInst (ht : s.insts[n]? = some (.translating t)) (u : Translating) :
    EngineFrame (some n) s (s.setInst n u) :=
  ⟨rfl, rfl, rfl, rfl, rfl, .inr ⟨n, t, u, rfl, ht, rfl⟩⟩

/-- A framed step makes no instance, removes none, and keeps the kind of each. -/
theorem EngineFrame.kinds (h : EngineFrame target s s') :
    s'.insts.length = s.insts.length ∧
    ∀ (m : Nat) (i j : Inst), s.insts[m]? = some i → s'.insts[m]? = some j →
      (i = j ∨ ∃ t u, i = .translating t ∧ j = .translating u) := by
  obtain same | ⟨n, t, u, -, ht, written⟩ := h.insts
  · rw [same]
    exact ⟨rfl, fun m i j hi hj => .inl (Option.some.inj (hi.symm.trans hj))⟩
  · rw [written]
    refine ⟨List.length_set, fun m i j hi hj => ?_⟩
    by_cases e : n = m
    · subst e
      obtain ⟨lt, -⟩ := List.getElem?_eq_some_iff.1 ht
      rw [List.getElem?_set_self lt] at hj
      cases hj
      exact .inr ⟨t, u, Option.some.inj (hi.symm.trans ht), rfl⟩
    · rw [List.getElem?_set_ne e] at hj
      exact .inl (Option.some.inj (hi.symm.trans hj))

/-! The three shapes of an operation on an instance that completes: nothing changes, an output is made
visible, or its state is written. -/

theorem onInst_same_frame (h : onInst n s (fun _ => .next s) = .next s') :
    EngineFrame (some n) s s' := by
  obtain ⟨t, ht, e⟩ := onInst_next h
  cases e
  exact .refl _ s

theorem onInst_emit_frame {o : Translating → Output}
    (h : onInst n s (fun t => .next (s.emit (o t))) = .next s') : EngineFrame (some n) s s' := by
  obtain ⟨t, ht, e⟩ := onInst_next h
  cases e
  exact (EngineFrame.refl _ s).emit _

theorem onInst_setInst_frame {f : Translating → Translating}
    (h : onInst n s (fun t => .next (s.setInst n (f t))) = .next s') :
    EngineFrame (some n) s s' := by
  obtain ⟨t, ht, e⟩ := onInst_next h
  cases e
  exact .setInst ht _

theorem readTargetSet_frame {k : Nat} {half : Quad → Word}
    (h : readTargetSet n k s half = .next s') : EngineFrame (some n) s s' := by
  obtain ⟨t, ht, e⟩ := onInst_next h
  split at e <;> cases e
  exact (EngineFrame.refl _ s).emit _

theorem writeTargetSet_frame {k : Nat} {f : Quad → Quad}
    (h : writeTargetSet n k s f = .next s') : EngineFrame (some n) s s' := by
  obtain ⟨t, ht, e⟩ := onInst_next h
  split at e <;> cases e
  exact .setInst ht _

theorem execRdUnlisted_frame {offset : BitVec 16} (h : execRdUnlisted n offset s = .next s') :
    EngineFrame (some n) s s' := by
  obtain ⟨t, ht, e⟩ := onInst_next h
  cases e
  exact (EngineFrame.refl _ s).bookkeeping _ _ _ _

theorem taskStep_frame (h : taskStep n s = .next s') : EngineFrame (some n) s s' := by
  obtain ⟨t, mask, ht, -, ⟨-, -, rfl⟩ | ⟨k, sid, rest, -, rfl⟩ | ⟨k, -, rfl⟩⟩ := taskStep_next h
  · exact .setInst ht _
  · exact (EngineFrame.setInst ht _).emit _
  · exact .setInst ht _

/-- `XLATE` finishes in S1 with the instance written, or goes on as a flight. -/
theorem execXlate_frame {sid : Sid} {wantR wantW : Bool} {iova : Quad}
    (h : execXlate n sid wantR wantW iova s = .next s') : EngineFrame (some n) s s' := by
  obtain ⟨t, ht, e⟩ := onInst_next h
  split at e
  · dsimp only at e
    split at e <;> cases e
    · exact (EngineFrame.setInst ht _).bookkeeping _ _ _ _
    · exact (EngineFrame.refl _ s).bookkeeping _ _ _ _
  · cases e

/-- `WALK` answers at level 0, or goes on as a flight. -/
theorem execWalk_frame {t0 t1 t2 t3 : Word} {page : Quad}
    (h : execWalk t0 t1 t2 t3 page s = .next s') : EngineFrame none s s' := by
  unfold execWalk at h
  dsimp only at h
  split at h <;> cases h
  all_goals exact (EngineFrame.refl _ s).bookkeeping _ _ _ _

end Frame

/-- Every operation keeps the frame of the instance it addresses. -/
theorem exec_frame {i : Instr} {s s' : State} (h : exec i s = .next s') :
    EngineFrame i.target s s' := by
  cases i with
  | rdParams | rdTlbOp | rdErrorStatus | rdErrorAddrLo | rdErrorAddrHi | rdConfig | rdSidRemap
  | rdTcr | rdTtbr | resolve | tlbLookup => exact onInst_emit_frame h
  | wrParams | wrErrorAddrLo | wrErrorAddrHi | wrUnlisted => exact onInst_same_frame h
  | wrTlbOp | wrErrorStatus | wrConfig | wrSidRemap | wrTcr | wrTtbr | reset | tlbInsert
  | tlbInvalidate | tlbClearAll | faultLatch => exact onInst_setInst_frame h
  | rdTargetSetLo | rdTargetSetHi => exact readTargetSet_frame h
  | wrTargetSetLo | wrTargetSetHi => exact writeTargetSet_frame h
  | rdUnlisted n offset => exact execRdUnlisted_frame (offset := offset) h
  | xlate => exact execXlate_frame h
  | invRun => exact taskStep_frame h
  | walk => exact execWalk_frame h
  | irqEval =>
    cases h
    exact (EngineFrame.refl _ s).emit _

/-- A step of a request writes at most the instance the request was made to, in S2. -/
theorem requestStep_frame {k : Nat} {s s' : State} (h : requestStep k s = .next s') :
    ∃ target, EngineFrame target s s' := by
  obtain ⟨f, -, -, hf⟩ := requestStep_next h
  obtain ⟨level, base, -, rfl⟩ | ⟨w, -, -, rfl⟩ | ⟨w, r, t, -, -, ht, rfl⟩ := flightStep_next hf
  · exact ⟨none, (EngineFrame.refl _ s).bookkeeping _ _ _ _⟩
  · exact ⟨none, (EngineFrame.refl _ s).bookkeeping _ _ _ _⟩
  · exact ⟨some r.inst, (EngineFrame.setInst ht _).bookkeeping _ _ _ _⟩

/-- Settles O56: each of the three kinds of step keeps the engine's frame. -/
theorem engineNeverWritesMemory : Obligations.EngineNeverWritesMemory := by
  intro s s' h
  have frame : ∃ target, EngineFrame target s s' := by
    obtain ⟨i, h⟩ | ⟨k, h⟩ | ⟨n, h⟩ := h
    · exact ⟨_, exec_frame h⟩
    · exact requestStep_frame h
    · exact ⟨_, taskStep_frame h⟩
  obtain ⟨target, frame⟩ := frame
  exact ⟨frame.mem, frame.holes⟩

/-- Settles O55: a step is one of the engine, which keeps the engine's frame, or a move of the memory
collaborator or of nobody, which leaves parameters and instances as they were. -/
theorem constructionNeverChanges : Obligations.ConstructionNeverChanges := by
  intro s s' h
  obtain ⟨i, packet, rest, -, -, -, he⟩ | ⟨a, v, rest, -, -, rfl⟩ | ⟨a, rest, -, -, rfl⟩ |
    ⟨k, -, hk⟩ | ⟨n, -, hn⟩ | ⟨-, rfl⟩ := step_next h
  · have frame := exec_frame he
    exact ⟨frame.params, frame.kinds⟩
  · exact ⟨rfl, (EngineFrame.refl none s).kinds⟩
  · exact ⟨rfl, (EngineFrame.refl none s).kinds⟩
  · obtain ⟨target, frame⟩ := requestStep_frame hk
    exact ⟨frame.params, frame.kinds⟩
  · have frame := taskStep_frame hn
    exact ⟨frame.params, frame.kinds⟩
  · exact ⟨rfl, (EngineFrame.refl none s).kinds⟩

end Sys2Proof.Machine
end

section
/-! The invariant of 10_state R36 through a step: each update of an instance keeps `InstOk`, each step of a walk
keeps `PhaseOk`, and each update of the machine keeps `Inv` if what it writes is well-formed. -/

namespace Sys2Proof.Machine

/-! ## Words -/

/-- A word has no bit outside a mask. -/
theorem and_not_eq_zero_iff {w : Nat} {a m : BitVec w} :
    a &&& ~~~ m = 0 ↔ ∀ i, a.getLsbD i = true → m.getLsbD i = true := by
  constructor
  · intro h i ha
    have bit := congrArg (BitVec.getLsbD · i) h
    have lt := BitVec.lt_of_getLsbD ha
    simpa [ha, lt] using bit
  · intro h
    refine BitVec.eq_of_getLsbD_eq fun i lt => ?_
    cases ha : a.getLsbD i
    · simp [ha]
    · simp [h i ha]

theorem or_and_not_eq_zero {w : Nat} {a b m : BitVec w} (ha : a &&& ~~~ m = 0)
    (hb : b &&& ~~~ m = 0) : (a ||| b) &&& ~~~ m = 0 := by
  rw [and_not_eq_zero_iff] at *
  intro i h
  rw [BitVec.getLsbD_or, Bool.or_eq_true] at h
  exact h.elim (ha i) (hb i)

theorem and_and_not_eq_zero {w : Nat} {a m : BitVec w} (ha : a &&& ~~~ m = 0) (b : BitVec w) :
    (a &&& b) &&& ~~~ m = 0 := by
  rw [and_not_eq_zero_iff] at *
  intro i h
  rw [BitVec.getLsbD_and, Bool.and_eq_true] at h
  exact ha i h.1

theorem acceptedOp_fields (nSets : Nat) (v : Word) :
    acceptedOp nSets v &&& ~~~ (busyField ||| opcodeField ||| setSelField nSets) = 0 := by
  rw [and_not_eq_zero_iff]
  intro i h
  simp only [acceptedOp, BitVec.getLsbD_or, BitVec.getLsbD_and, Bool.or_eq_true,
    Bool.and_eq_true] at h ⊢
  tauto

theorem opBusy_acceptedOp (nSets : Nat) (v : Word) : opBusy (acceptedOp nSets v) = true := by
  simp [opBusy, acceptedOp, busyField]

theorem opBusy_completedOp (w : Word) : opBusy (completedOp w) = false := by
  simp [opBusy, completedOp, busyField]

theorem opOpcode_completedOp (w : Word) : opOpcode (completedOp w) = 0 := by
  have clear : ∀ i < 4, opcodeField.getLsbD (20 + i) = true := by decide
  refine BitVec.eq_of_getLsbD_eq fun i lt => ?_
  simp [opOpcode, completedOp, clear i lt]

theorem pageOk_pageOf (z : PageSize) (iova : Quad) : PageOk z (pageOf z iova) := by
  have lt := iova.isLt
  unfold PageOk pageOf
  rw [BitVec.toNat_ushiftRight, Nat.shiftRight_eq_div_pow]
  cases z <;> simp only [pageShift] <;> omega

theorem pteAddr_aligned (z : PageSize) (pte : Quad) : pteAddr z pte &&& pageMask z = 0 := by
  simp [pteAddr, BitVec.and_assoc]

theorem pteAddr_le (z : PageSize) (pte : Quad) : pteAddr z pte ≤ pteAddrMask := by
  rw [BitVec.le_def]
  calc (pteAddr z pte).toNat ≤ (pte &&& pteAddrMask).toNat := by
        rw [pteAddr, BitVec.toNat_and]; exact Nat.and_le_left
    _ ≤ pteAddrMask.toNat := by rw [BitVec.toNat_and]; exact Nat.and_le_right

theorem ttbrBase_aligned (t : Word) : ttbrBase t &&& 0xFFF = 0 := by
  have high : ∀ i < 64, 12 ≤ i → (0xFFF#64).getLsbD i = false := by decide
  refine BitVec.eq_of_getLsbD_eq fun i lt => ?_
  rw [BitVec.getLsbD_and]
  by_cases low : i < 12
  · simp [ttbrBase, low]
  · simp [high i lt (Nat.le_of_not_lt low)]

theorem ttbrBase_lt (t : Word) : (ttbrBase t).toNat < 2 ^ 40 := by
  have le : (t &&& 0x0FFFFFFF).toNat ≤ 0x0FFFFFFF := by
    rw [BitVec.toNat_and]; exact Nat.and_le_right
  unfold ttbrBase
  rw [BitVec.toNat_shiftLeft, BitVec.toNat_setWidth, Nat.shiftLeft_eq]
  omega

/-! ## Walks -/

theorem phaseOk_walkStart (z : PageSize) (word : Word) : PhaseOk z (walkStart word) := by
  unfold walkStart
  split
  · exact ⟨ttbrBase_aligned _, ttbrBase_lt _⟩
  · trivial

theorem phaseOk_walkRead (z : PageSize) (level : Level) (answer : Option Bytes8) :
    PhaseOk z (walkRead z level answer) := by
  cases answer with
  | none => trivial
  | some bytes =>
    unfold walkRead
    dsimp only
    split
    · cases level
      · exact ⟨pteAddr_aligned _ _, pteAddr_le _ _⟩
      · exact ⟨pteAddr_aligned _ _, pteAddr_le _ _⟩
    · trivial

/-- Where section S1 goes on, it goes on from level 0 of the walk (43 R142). -/
theorem xlateS1_walking {P : Params} {t : Translating} {r : Request} {word : Word} {level : Level}
    {base : Quad} (h : xlateS1 P t r = .walking word level base) :
    walkStart word = .reading level base := by
  unfold xlateS1 at h
  split at h
  · cases h
  · split at h
    · cases h
    · dsimp only at h
      split at h <;> cases h
      assumption

/-! ## One instance -/

section OneInstance

variable {P : Params} {t : Translating}

theorem InstOk.reset (P : Params) : InstOk P (resetInst P) where
  status := by simp [resetInst, Translating.reset]
  busy := (by decide : opBusy 0 = false)
  opBits := by simp [resetInst, Translating.reset]
  idleOpcode _ := (by decide : opOpcode 0 = 0)
  sets := List.length_replicate
  cache := List.Pairwise.nil
  entries x hx := absurd hx List.not_mem_nil
  mask m hm := nomatch hm
  task k hk := nomatch hk

theorem InstOk.latchFault (ok : InstOk P t) {bits : Word} (hb : bits &&& ~~~ faultAll = 0)
    (addr : Quad) (psid : Sid) : InstOk P (latchFault t bits addr psid) :=
  { ok with status := or_and_not_eq_zero ok.status hb }

theorem InstOk.ackFault (ok : InstOk P t) (val : Word) : InstOk P (ackFault t val) :=
  { ok with status := and_and_not_eq_zero ok.status _ }

theorem InstOk.setTarget (ok : InstOk P t) (k : Nat) (x : Quad) :
    InstOk P { t with targetSets := t.targetSets.set k x } :=
  { ok with sets := List.length_set.trans ok.sets }

theorem InstOk.tlbSet (ok : InstOk P t) (psid : Sid) {page : Quad} {e : TlbEntry}
    (hp : PageOk P.pageSize page) (he : EntryOk P.pageSize e) :
    InstOk P { t with tlb := tlbSet t.tlb psid page e } :=
  { ok with
    cache := rising_mapSet _ _ ok.cache
    entries := fun x hx => (mem_mapSet hx).elim (fun new => new ▸ ⟨he, hp⟩) (ok.entries x) }

/-- An acceptance happens only while no invalidation is owed, so no task runs (44 R153, R154). -/
theorem InstOk.writeTlbOp (ok : InstOk P t) (val : Word) :
    InstOk P (writeTlbOp P.nSets t val) := by
  obtain ⟨e, -⟩ | ⟨idle, -, selected, e⟩ := writeTlbOp_cases P.nSets t val <;> rw [e]
  · exact ok
  · have none_owed : t.pendingInval = none := by
      rw [ok.busy] at idle
      simpa using idle
    exact { ok with
      busy := opBusy_acceptedOp _ _
      opBits := acceptedOp_fields _ _
      idleOpcode := fun h => absurd h (by simp [opBusy_acceptedOp])
      mask := fun m hm => Option.some.inj hm ▸ selected
      task := fun k hk => absurd (ok.task k hk).1 (by simp [none_owed]) }

theorem InstOk.taskEvict (ok : InstOk P t) {mask : Quad} (hm : t.pendingInval = some mask) :
    InstOk P (taskEvict P t mask) :=
  { ok with
    cache := rising_filter _ ok.cache
    entries := fun x hx => ok.entries x (List.mem_of_mem_filter hx)
    task := fun _ hk => Option.some.inj hk ▸ ⟨hm, List.suffix_refl _⟩ }

theorem InstOk.taskNotify (ok : InstOk P t) {mask : Quad} {sid : Sid} {rest : List Sid}
    (hk : t.task = some ⟨mask, sid :: rest⟩) : InstOk P { t with task := some ⟨mask, rest⟩ } :=
  have ⟨pending, suffix⟩ := ok.task _ hk
  { ok with
    task := fun _ h =>
      Option.some.inj h ▸ ⟨pending, (List.suffix_cons sid rest).trans suffix⟩ }

theorem InstOk.taskComplete (ok : InstOk P t) : InstOk P (taskComplete t) :=
  { ok with
    busy := opBusy_completedOp _
    opBits := and_and_not_eq_zero (and_and_not_eq_zero ok.opBits _) _
    idleOpcode := fun _ => opOpcode_completedOp _
    mask := fun _ h => nomatch h
    task := fun _ h => nomatch h }

/-- A request that ends in S1 leaves the instance well-formed, and its task alone. -/
theorem InstOk.xlateS1 (ok : InstOk P t) {r : Request} {t' : Translating} {res : XlateResult}
    (h : xlateS1 P t r = .finished t' res) : InstOk P t' ∧ t'.task = t.task := by
  obtain rfl | ⟨b, rfl, hb⟩ := xlateS1_finished h
  · exact ⟨ok, rfl⟩
  · exact ⟨ok.latchFault hb _ _, rfl⟩

/-- Section S2 with the result of a walk leaves the instance well-formed, and its task alone. -/
theorem InstOk.xlateS2 (ok : InstOk P t) (r : Request) {w : WalkResult}
    (hw : PhaseOk P.pageSize (.done w)) :
    InstOk P (xlateS2 P.pageSize t r w).1 ∧ (xlateS2 P.pageSize t r w).1.task = t.task := by
  obtain ⟨c, cache, latch⟩ := xlateS2_cases P.pageSize t r w
  have filled : InstOk P { t with tlb := c } := by
    obtain rfl | ⟨-, e, rfl, rfl⟩ := cache
    · exact ok
    · exact ok.tlbSet _ (pageOk_pageOf _ _) hw
  obtain h | ⟨b, h, hb⟩ := latch <;> rw [h]
  · exact ⟨filled, rfl⟩
  · exact ⟨filled.latchFault hb _ _, rfl⟩

end OneInstance

/-! ## Updates of the machine -/

/-- No instance but `n` has a deferred task between its steps (70 R213). -/
def OthersIdle (n : Nat) (s : State) : Prop :=
  ∀ (m : Nat) (i : Inst), m ≠ n → s.insts[m]? = some i → i.running = false

theorem othersIdle_of_loop_free {n : Nat} {s : State} (h : loopBusyElsewhere n s = false) :
    OthersIdle n s := by
  intro m i ne hi
  have mem : i ∈ s.insts.set n .unknown :=
    List.mem_of_getElem? ((List.getElem?_set_ne ne.symm).trans hi)
  simpa using List.any_eq_false.1 h i mem

section Machine

variable {s : State} {n : Nat} {t : Translating}

theorem FlightOk.transfer {s' : State} {f : Flight} (ok : FlightOk s f)
    (params : s'.params = s.params) (tickets : s.nextTicket ≤ s'.nextTicket)
    (kinds : ∀ m, s.translatingAt m → s'.translatingAt m) : FlightOk s' f where
  phase := params ▸ ok.phase
  issued := Nat.lt_of_lt_of_le ok.issued tickets
  request r hr :=
    have ⟨page, inst⟩ := ok.request r hr
    ⟨params ▸ page, kinds _ inst⟩

/-- A running task is the only one. -/
theorem Inv.othersIdle (inv : Inv s) (ht : s.insts[n]? = some (.translating t))
    (running : t.task.isSome = true) : OthersIdle n s := by
  intro m i ne hi
  by_contra h
  exact ne (inv.loop m n _ _ hi ht (by simpa using h) running)

/-- Turns, history and the two counters stand outside the invariant, but tickets never run back. -/
theorem Inv.bookkeeping (inv : Inv s) {nextTicket : Nat} (le : s.nextTicket ≤ nextTicket)
    (turns : List Turn) (history : List Output) (freeCount : Nat) :
    Inv { s with turns, history, nextTicket, freeCount } :=
  { inv with flights := fun f hf => (inv.flights f hf).transfer rfl le fun _ h => h }

theorem Inv.emit (inv : Inv s) (o : Output) : Inv (s.emit o) := inv.bookkeeping le_rfl _ _ _

theorem Inv.turnTaken (inv : Inv s) : Inv s.turnTaken := inv.bookkeeping le_rfl _ _ _

theorem Inv.receive (inv : Inv s) {x : Input} {rest : List Input} (h : s.inputs = x :: rest) :
    Inv { s with inputs := rest } :=
  { inv with
    flights := fun f hf => (inv.flights f hf).transfer rfl le_rfl fun _ h => h
    outside := fun y hy => inv.outside y (h ▸ List.mem_cons_of_mem x hy) }

theorem Inv.storeMem (inv : Inv s) (a v : Quad) : Inv (s.storeMem a v) :=
  { inv with
    flights := fun f hf => (inv.flights f hf).transfer rfl le_rfl fun _ h => h
    memory := Memory.wf_write8 inv.memory a v
    holes := ⟨inv.holes.1.sublist List.filter_sublist,
      fun c hc => inv.holes.2 c (mem_removeHoles.1 hc).1⟩ }

theorem addHoles_rising (a : Quad) {h : List Nat} (r : h.Pairwise (· < ·)) :
    (addHoles a h).Pairwise (· < ·) := by
  unfold addHoles
  induction List.range 8 generalizing h with
  | nil => exact r
  | cons j js ih => exact ih (addHole_rising _ r)

theorem Inv.failMem (inv : Inv s) (a : Quad) : Inv (s.failMem a) :=
  { inv with
    flights := fun f hf => (inv.flights f hf).transfer rfl le_rfl fun _ h => h
    holes := by
      refine ⟨addHoles_rising a inv.holes.1, fun c hc => ?_⟩
      obtain ⟨j, -, rfl⟩ | hc := mem_addHoles.1 hc
      · exact byteAddr_lt a j
      · exact inv.holes.2 c hc }

/-- New state of an instance keeps the invariant if it is well-formed and, where it runs a task, no other
task runs. -/
theorem Inv.setInst (inv : Inv s) (ht : s.insts[n]? = some (.translating t)) {u : Translating}
    (ok : InstOk s.params u) (alone : u.task.isSome = true → OthersIdle n s) :
    Inv (s.setInst n u) :=
  { inv with
    insts := by
      intro m w hw
      by_cases e : m = n
      · subst e
        rw [setInst_at ht] at hw
        cases hw
        exact ok
      · exact inv.insts m w (setInst_other e u ▸ hw)
    flights := fun f hf => (inv.flights f hf).transfer rfl le_rfl fun m => (setInst_kinds ht u m).2
    loop := by
      have idle : ∀ {m i}, m ≠ n → (s.setInst n u).insts[m]? = some i → i.running = true →
          u.task.isSome = true → False := fun ne hi running task =>
        absurd running (by simp [alone task _ _ ne (setInst_other ne u ▸ hi)])
      intro m k i j hi hj ri rj
      by_cases em : m = n <;> by_cases ek : k = n
      · rw [em, ek]
      · subst em
        rw [setInst_at ht] at hi
        cases hi
        exact (idle ek hj rj ri).elim
      · subst ek
        rw [setInst_at ht] at hj
        cases hj
        exact (idle em hi ri rj).elim
      · exact inv.loop m k i j (setInst_other em u ▸ hi) (setInst_other ek u ▸ hj) ri rj }

/-- New state of an instance with the task as it was, or with none. -/
theorem Inv.setInst_of_task (inv : Inv s) (ht : s.insts[n]? = some (.translating t))
    {u : Translating} (ok : InstOk s.params u) (task : u.task = t.task ∨ u.task = none) :
    Inv (s.setInst n u) := by
  refine inv.setInst ht ok fun running => ?_
  obtain task | task := task <;> rw [task] at running
  · exact inv.othersIdle ht running
  · cases running

/-- A walk taken into flight gets a ticket no other has. -/
theorem Inv.addFlight (inv : Inv s) {purpose : Purpose} {page : Quad} {ttbr : Word} {phase : Phase}
    (ok : PhaseOk s.params.pageSize phase)
    (request : ∀ r, purpose = .request r →
      page = pageOf s.params.pageSize r.iova ∧ s.translatingAt r.inst) :
    Inv { s with
      nextTicket := s.nextTicket + 1
      flights := s.flights ++ [⟨s.nextTicket, purpose, page, ttbr, phase⟩] } :=
  { inv with
    flights := by
      intro f hf
      obtain hf | hf := List.mem_append.1 hf
      · exact (inv.flights f hf).transfer rfl (Nat.le_succ _) fun _ h => h
      · obtain rfl := List.mem_singleton.1 hf
        exact ⟨ok, Nat.lt_succ_self _, request⟩
    tickets := by
      have fresh : s.nextTicket ∉ s.flights.map Flight.ticket := fun h =>
        have ⟨f, hf, e⟩ := List.mem_map.1 h
        Nat.lt_irrefl _ (e ▸ (inv.flights f hf).issued)
      rw [List.map_append]
      exact List.nodup_append'.2 ⟨inv.tickets, List.nodup_singleton _,
        List.disjoint_singleton.2 fresh⟩ }

theorem putFlight_tickets (s : State) (f : Flight) :
    (s.putFlight f).flights.map Flight.ticket = s.flights.map Flight.ticket := by
  rw [State.putFlight_flights, List.map_map]
  refine List.map_congr_left fun g _ => ?_
  by_cases e : g.ticket = f.ticket <;> simp [e]

theorem Inv.putFlight (inv : Inv s) {f : Flight} (hf : f ∈ s.flights) {phase : Phase}
    (ok : PhaseOk s.params.pageSize phase) : Inv (s.putFlight { f with phase }) :=
  { inv with
    flights := by
      intro g hg
      obtain ⟨g', hg', rfl⟩ := List.mem_map.1 hg
      split
      · exact { inv.flights f hf with phase := ok }
      · exact (inv.flights g' hg').transfer rfl le_rfl fun _ h => h
    tickets := putFlight_tickets s _ ▸ inv.tickets }

theorem Inv.dropFlight (inv : Inv s) (ticket : Nat) : Inv (s.dropFlight ticket) :=
  { inv with
    flights := fun f hf =>
      (inv.flights f (List.mem_of_mem_filter hf)).transfer rfl le_rfl fun _ h => h
    tickets := inv.tickets.sublist (List.filter_sublist.map _) }

end Machine

/-! ## Steps of the machine -/

section Steps

variable {s s' : State} {n : Nat}

theorem onInst_same_inv (inv : Inv s) (h : onInst n s (fun _ => .next s) = .next s') : Inv s' := by
  obtain ⟨t, -, e⟩ := onInst_next h
  cases e
  exact inv

theorem busRead_inv {value : Translating → Word} (inv : Inv s)
    (h : busRead n s value = .next s') : Inv s' := by
  obtain ⟨t, -, rfl⟩ := busRead_next h
  exact inv.emit _

/-- A register write keeps the invariant if it leaves the instance well-formed and starts no task. -/
theorem busWrite_inv {f : Translating → Translating} (inv : Inv s) (h : busWrite n s f = .next s')
    (ok : ∀ t, InstOk s.params t → InstOk s.params (f t))
    (task : ∀ t, (f t).task = t.task ∨ (f t).task = none) : Inv s' := by
  obtain ⟨t, ht, rfl⟩ := busWrite_next h
  exact inv.setInst_of_task ht (ok t (inv.insts n t ht)) (task t)

theorem writeTlbOp_task (nSets : Nat) (t : Translating) (val : Word) :
    (writeTlbOp nSets t val).task = t.task := by
  obtain ⟨e, -⟩ | ⟨-, -, -, e⟩ := writeTlbOp_cases nSets t val <;> rw [e]

theorem readTargetSet_inv {k : Nat} {half : Quad → Word} (inv : Inv s)
    (h : readTargetSet n k s half = .next s') : Inv s' := by
  obtain ⟨t, -, e⟩ := onInst_next h
  split at e <;> cases e
  exact inv.emit _

theorem writeTargetSet_inv {k : Nat} {f : Quad → Quad} (inv : Inv s)
    (h : writeTargetSet n k s f = .next s') : Inv s' := by
  obtain ⟨t, ht, e⟩ := onInst_next h
  split at e <;> cases e
  exact inv.setInst_of_task ht ((inv.insts n t ht).setTarget _ _) (.inl rfl)

theorem execRdUnlisted_inv {offset : BitVec 16} (inv : Inv s)
    (h : execRdUnlisted n offset s = .next s') : Inv s' := by
  obtain ⟨t, -, e⟩ := onInst_next h
  cases e
  exact inv.bookkeeping le_rfl _ _ _

theorem taskStep_inv (inv : Inv s) (h : taskStep n s = .next s') : Inv s' := by
  obtain ⟨t, mask, ht, pending, step⟩ := taskStep_next h
  have ok := inv.insts n t ht
  obtain ⟨-, free, rfl⟩ | ⟨k, sid, rest, running, rfl⟩ | ⟨k, -, rfl⟩ := step
  · exact inv.setInst ht (ok.taskEvict pending) fun _ => othersIdle_of_loop_free free
  · exact (inv.setInst ht (ok.taskNotify running) fun _ =>
      inv.othersIdle ht (by simp [running])).emit _
  · exact inv.setInst_of_task ht ok.taskComplete (.inr rfl)

/-- `XLATE` ends in S1, with the instance written, or goes on as a flight. -/
theorem execXlate_inv {sid : Sid} {wantR wantW : Bool} {iova : Quad} (inv : Inv s)
    (h : execXlate n sid wantR wantW iova s = .next s') : Inv s' := by
  obtain ⟨t, ht, e⟩ := onInst_next h
  split at e
  · dsimp only at e
    split at e <;> cases e
    · rename_i t' res finished
      obtain ⟨ok, task⟩ := (inv.insts n t ht).xlateS1 finished
      exact (inv.setInst_of_task ht ok (.inl task)).bookkeeping (Nat.le_succ _) _ _ _
    · rename_i word level base walking
      refine inv.addFlight ?_ fun r hr => ?_
      · rw [← xlateS1_walking walking]
        exact phaseOk_walkStart _ _
      · cases hr
        exact ⟨rfl, t, ht⟩
  · cases e

/-- Every operation that the outside can issue keeps the invariant. -/
theorem exec_inv {i : Instr} (external : i.isInternal = false) (inv : Inv s)
    (h : exec i s = .next s') : Inv s' := by
  cases i with
  | rdParams | rdTlbOp | rdErrorStatus | rdErrorAddrLo | rdErrorAddrHi | rdConfig | rdSidRemap
  | rdTcr | rdTtbr => exact busRead_inv inv h
  | wrParams | wrErrorAddrLo | wrErrorAddrHi | wrUnlisted => exact onInst_same_inv inv h
  | wrConfig | wrSidRemap | wrTcr | wrTtbr =>
    exact busWrite_inv inv h (fun _ ok => { ok with }) fun _ => .inl rfl
  | wrErrorStatus => exact busWrite_inv inv h (fun _ ok => ok.ackFault _) fun _ => .inl rfl
  | wrTlbOp =>
    exact busWrite_inv inv h (fun _ ok => ok.writeTlbOp _) fun _ => .inl (writeTlbOp_task _ _ _)
  | reset => exact busWrite_inv inv h (fun _ _ => .reset _) fun _ => .inr rfl
  | rdTargetSetLo | rdTargetSetHi => exact readTargetSet_inv inv h
  | wrTargetSetLo | wrTargetSetHi => exact writeTargetSet_inv inv h
  | rdUnlisted n offset => exact execRdUnlisted_inv (offset := offset) inv h
  | xlate => exact execXlate_inv inv h
  | invRun => exact taskStep_inv inv h
  | resolve | walk | tlbLookup | tlbInsert | tlbInvalidate | tlbClearAll | faultLatch | irqEval =>
    cases external

theorem requestStep_inv {ticket : Nat} (inv : Inv s) (h : requestStep ticket s = .next s') :
    Inv s' := by
  obtain ⟨f, hf, -, h⟩ := requestStep_next h
  obtain ⟨level, base, -, rfl⟩ | ⟨w, -, -, rfl⟩ | ⟨w, r, t, done, -, ht, rfl⟩ := flightStep_next h
  · exact (inv.putFlight hf (phaseOk_walkRead _ _ _)).emit _
  · exact (inv.dropFlight _).emit _
  · have walked : PhaseOk s.params.pageSize (.done w) := done ▸ (inv.flights f hf).phase
    obtain ⟨ok, task⟩ := (inv.insts _ t ht).xlateS2 r walked
    exact ((inv.dropFlight _).setInst_of_task ht ok (.inl task)).emit _

end Steps

/-- Settles O54: an input from outside is an operation that is not internal or a move of the memory
collaborator, and each of the agents' steps keeps the invariant. -/
theorem stepKeepsInvariant : Obligations.StepKeepsInvariant := by
  intro s s' inv h
  have taken := inv.turnTaken
  obtain ⟨i, packet, rest, -, -, port, he⟩ | ⟨a, v, rest, -, hi, rfl⟩ | ⟨a, rest, -, hi, rfl⟩ |
    ⟨k, -, hk⟩ | ⟨n, -, hn⟩ | ⟨-, rfl⟩ := step_next h
  · obtain ⟨hi, external⟩ | ⟨hi, -⟩ := port
    · exact exec_inv external (taken.receive hi) he
    · exact absurd (inv.outside (.internal packet) (hi ▸ List.mem_cons_self)) Bool.false_ne_true
  · exact (taken.receive hi).storeMem a v
  · exact (taken.receive hi).failMem a
  · exact requestStep_inv taken hk
  · exact taskStep_inv taken hn
  · exact taken

theorem default_wf : Params.default.wf :=
  ⟨by decide, by decide, by decide, by decide, by decide,
    List.forall_mem_cons.2 ⟨by decide, List.forall_mem_singleton.2 (by decide)⟩⟩

/-- Settles O53: the one instance is in its reset state, and nothing else is there. -/
theorem resetSatisfiesInvariant : Obligations.ResetSatisfiesInvariant where
  params := default_wf
  insts n t ht := by
    obtain ⟨-, rfl⟩ : n = 0 ∧ resetInst Params.default = t := by
      simpa [State.reset, resetInst, List.getElem?_singleton] using ht
    exact .reset _
  flights f hf := absurd hf List.not_mem_nil
  tickets := List.nodup_nil
  memory := by decide
  holes := by decide
  loop n m i j hi hj _ _ := by
    have only : ∀ {k i}, State.reset.insts[k]? = some i → k = 0 := fun h =>
      (List.getElem?_eq_some_iff.1 h).elim fun lt _ => Nat.lt_one_iff.1 lt
    rw [only hi, only hj]
  outside x hx := absurd hx List.not_mem_nil

end Sys2Proof.Machine
end

section
/-! What each kind of turn runs, and the memory collaborator as a whole: eight bytes stored read back as the
value, bytes made to fail fail, and every other read is as before (20_memory R50, R66). -/

namespace Sys2Proof.Machine

/-! ## Turns -/

section Turns

variable {s : State}

theorem step_of_input_turn (h : nextTurn s = .input) : step s = takeInput s.turnTaken := by
  simp only [step, h]

theorem step_of_request_turn {ticket : Nat} (h : nextTurn s = .request ticket) :
    step s = requestStep ticket s.turnTaken := by
  simp only [step, h]

theorem step_of_task_turn {n : Nat} (h : nextTurn s = .task n) :
    step s = taskStep n s.turnTaken := by
  simp only [step, h]

theorem step_mem64 {a v : Quad} {rest : List Input} (turn : nextTurn s = .input)
    (h : s.inputs = .mem64 a v :: rest) :
    step s = .next ({ s.turnTaken with inputs := rest }.storeMem a v) := by
  rw [step_of_input_turn turn]
  simp only [takeInput, State.turnTaken_inputs, h]

theorem step_memFail {a : Quad} {rest : List Input} (turn : nextTurn s = .input)
    (h : s.inputs = .memFail a :: rest) :
    step s = .next ({ s.turnTaken with inputs := rest }.failMem a) := by
  rw [step_of_input_turn turn]
  simp only [takeInput, State.turnTaken_inputs, h]

end Turns

/-! ## Little-endian bytes -/

/-- Byte `j` of a value, back in its place. -/
def placedByte (v : Quad) (j : Nat) : Quad := (byteOf v j).setWidth 64 <<< (8 * j)

theorem getLsbD_placedByte (v : Quad) (j : Nat) {i : Nat} (hi : i < 64) :
    (placedByte v j).getLsbD i = (decide (8 * j ≤ i ∧ i < 8 * j + 8) && v.getLsbD i) := by
  rw [placedByte, BitVec.getLsbD_shiftLeft, BitVec.getLsbD_setWidth, byteOf,
    BitVec.getLsbD_extractLsb']
  by_cases low : i < 8 * j
  · simp [low, Nat.not_le.2 low]
  · by_cases high : i < 8 * j + 8
    · simp [hi, low, high, Nat.le_of_not_lt low, show i - 8 * j < 8 by omega,
        show i - 8 * j < 64 by omega, show 8 * j + (i - 8 * j) = i by omega]
    · simp [high, show ¬ i - 8 * j < 8 by omega]

/-- The eight bytes of a 64-bit value, least significant first. -/
def bytesOf (v : Quad) : Bytes8 :=
  #v[byteOf v 0, byteOf v 1, byteOf v 2, byteOf v 3, byteOf v 4, byteOf v 5, byteOf v 6, byteOf v 7]

theorem le64_bytesOf (v : Quad) : le64 (bytesOf v) = v := by
  have assembled : le64 (bytesOf v) = placedByte v 0 ||| placedByte v 1 ||| placedByte v 2
      ||| placedByte v 3 ||| placedByte v 4 ||| placedByte v 5 ||| placedByte v 6
      ||| placedByte v 7 := by
    simp [le64, bytesOf, placedByte]
  rw [assembled]
  refine BitVec.eq_of_getLsbD_eq fun i hi => ?_
  simp only [BitVec.getLsbD_or, getLsbD_placedByte v _ hi, ← Bool.and_or_distrib_right,
    ← Bool.decide_or]
  rw [decide_eq_true (by omega), Bool.true_and]

theorem bytesOf_zero (v : Quad) : (bytesOf v)[0] = v.setWidth 8 :=
  (BitVec.setWidth_eq_extractLsb' (by decide)).symm

/-! ## The collaborator's moves -/

theorem Memory.read8_write8 (m : Memory) (a v : Quad) : (m.write8 a v).read8 a = bytesOf v := by
  simp [Memory.read8, Memory.read_write8_same, bytesOf]

theorem readPhysical_of_readable {m : Memory} {h : List Nat} {a : Quad}
    (readable : ∀ i < 8, byteAddr a i ∉ h) : readPhysical m h a = some (m.read8 a) := by
  simpa [readPhysical] using readable

section Moves

variable (s : State) {a b : Quad}

/-- What `MEM64` stored, a read of the same address answers. -/
theorem readPhysical_storeMem_same (a v : Quad) :
    readPhysical (s.storeMem a v).mem (s.storeMem a v).holes a = some (bytesOf v) := by
  rw [State.storeMem_mem, State.storeMem_holes,
    readPhysical_of_readable fun i hi hole => (mem_removeHoles.1 hole).2 i hi rfl,
    Memory.read8_write8]

/-- A read of none of the eight bytes stored is answered as before. -/
theorem readPhysical_storeMem_apart (v : Quad)
    (apart : ∀ i < 8, ∀ j < 8, byteAddr b i ≠ byteAddr a j) :
    readPhysical (s.storeMem a v).mem (s.storeMem a v).holes b = readPhysical s.mem s.holes b :=
  readPhysical_congr (fun i hi => Memory.read_write8_other _ _ _ (apart i hi)) fun i hi => by
    rw [State.storeMem_holes, mem_removeHoles, and_iff_left (apart i hi)]

/-- A read of none of the eight bytes made to fail is answered as before. -/
theorem readPhysical_failMem_apart (apart : ∀ i < 8, ∀ j < 8, byteAddr b i ≠ byteAddr a j) :
    readPhysical (s.failMem a).mem (s.failMem a).holes b = readPhysical s.mem s.holes b :=
  readPhysical_congr (fun _ _ => rfl) fun i hi => by
    rw [State.failMem_holes, mem_addHoles, or_iff_right fun ⟨j, hj, e⟩ => apart i hi j hj e]

/-- A read of one of the eight bytes made to fail fails. -/
theorem readPhysical_failMem_overlap (overlap : ∃ i < 8, ∃ j < 8, byteAddr b i = byteAddr a j) :
    readPhysical (s.failMem a).mem (s.failMem a).holes b = none :=
  have ⟨i, hi, j, hj, e⟩ := overlap
  readPhysical_eq_none.2 ⟨i, hi, mem_addHoles.2 (.inl ⟨j, hj, e⟩)⟩

end Moves

/-- Settles O39: the eight addresses of an access are told apart by their numbers, and what is asked of each
byte or read is one of the laws above. -/
theorem storedEntryReadsBack : Obligations.StoredEntryReadsBack := by
  intro s a v
  refine ⟨⟨bytesOf v, readPhysical_storeMem_same s a v, le64_bytesOf v, bytesOf_zero v⟩,
    fun c other => ⟨Memory.read_write8_other _ _ _ other, ?_, ?_⟩, rfl,
    fun b => ⟨?_, fun apart => ?_⟩,
    fun rest turn => ⟨fun h => step_mem64 turn h, fun h => step_memFail turn h⟩⟩
  · rw [State.storeMem_holes, mem_removeHoles]
    exact and_iff_left other
  · rw [State.failMem_holes, mem_addHoles]
    exact or_iff_right fun ⟨j, hj, e⟩ => other j hj e
  · rintro ⟨i, hi, j, hj, e⟩
    exact readPhysical_failMem_overlap s ⟨i, hi, j, hj, congrArg BitVec.toNat e⟩
  · have addresses : ∀ i < 8, ∀ j < 8, byteAddr b i ≠ byteAddr a j := fun i hi j hj e =>
      apart i hi j hj (BitVec.eq_of_toNat_eq e)
    exact ⟨readPhysical_storeMem_apart s v addresses, readPhysical_failMem_apart s addresses⟩

end Sys2Proof.Machine
end

section
/-! Evicted streams, and the race the spec allows: after T1 a request of a named SID does not hit, and a walk
that ends after T1 leaves its entry all the same (20_memory R62, R69). -/

namespace Sys2Proof.Machine

section SectionOne

variable {P : Params} {t : Translating} {r : Request}

/-- A bypassed request ends in S1 and is granted nothing (43 R140). -/
theorem xlateS1_bypassed (h : bypassApplies P t r.psid = true) :
    xlateS1 P t r = .finished t (noAccess P.pageSize) := by
  unfold xlateS1
  rw [if_pos h]

/-- A request that is not bypassed and does not hit tests the TTBR slot: it faults at level 0 or goes on to
level 1 (43 R142). -/
theorem xlateS1_miss (enabled : bypassApplies P t r.psid = false)
    (absent : tlbFind t.tlb r.psid (pageOf P.pageSize r.iova) = none) :
    (∃ word base, xlateS1 P t r = .walking word .one base) ∨
      xlateS1 P t r = .finished (latchFault t FaultKind.ttbrInvalid.bit r.iova r.psid)
        (noAccess P.pageSize) := by
  unfold xlateS1
  rw [if_neg (by simp [enabled])]
  simp only [absent, walkStart]
  by_cases valid : ttbrValid (ttbrAt t.ttbr r.psid (slotOf P.pageSize (pageOf P.pageSize r.iova)))
  · exact .inl ⟨_, _, by rw [if_pos valid]⟩
  · exact .inr (by rw [if_neg valid]; rfl)

end SectionOne

/-- T1 leaves no entry of a SID its mask names (44 R162). -/
theorem tlbFind_taskEvict {mask : Quad} {psid : Sid} (named : mask.getLsbD psid.toNat = true)
    (P : Params) (t : Translating) (page : Quad) :
    tlbFind (taskEvict P t mask).tlb psid page = none := by
  rw [taskEvict_tlb, tlbFind_tlbEvict, if_pos named]

/-- Settles O47: T1 changes no configuration, so the bypass check is as before it, and the lookup misses. -/
theorem evictedStreamWalksAgain : Obligations.EvictedStreamWalksAgain := by
  intro P t mask r named
  refine ⟨fun bypassed => xlateS1_bypassed bypassed, fun enabled => ?_⟩
  obtain walking | faulted :=
    xlateS1_miss (t := taskEvict P t mask) enabled (tlbFind_taskEvict named P t _)
  · exact .inl walking
  · exact .inr ⟨_, faulted, rfl⟩

/-! ## The allowed race -/

section Race

variable {s : State} {n : Nat} {t : Translating}

theorem loopBusyElsewhere_eq_false (idle : ∀ (m : Nat) (i : Inst), s.insts[m]? = some i →
    i.running = false) : loopBusyElsewhere n s = false := by
  refine List.any_eq_false.2 fun i hi => ?_
  obtain hi | rfl := List.mem_or_eq_of_mem_set hi
  · obtain ⟨m, hm⟩ := List.mem_iff_getElem?.1 hi
    simp [idle m i hm]
  · decide

/-- A turn of a queued task, with no other task between its steps, is T1 (44 R162, 70 R213). -/
theorem step_evict {mask : Quad} (turn : nextTurn s = .task n)
    (ht : s.insts[n]? = some (.translating t)) (pending : t.pendingInval = some mask)
    (queued : t.task = none) (free : loopBusyElsewhere n s = false) :
    step s = .next (s.turnTaken.setInst n (taskEvict s.params t mask)) := by
  have free : loopBusyElsewhere n s.turnTaken = false := free
  rw [step_of_task_turn turn, taskStep, onInst_at (s := s.turnTaken) ht]
  simp [pending, queued, free]

/-- The first flight is the one its ticket names. -/
theorem requestStep_head {f : Flight} {rest : List Flight} (h : s.flights = f :: rest) :
    requestStep f.ticket s = flightStep f s := by
  simp [requestStep, h]

/-- A turn of a request whose walk has ended is section S2 on its instance (20_memory R59). -/
theorem step_closing {f : Flight} {rest : List Flight} {r : Request} {w : WalkResult}
    (turn : nextTurn s = .request f.ticket) (flights : s.flights = f :: rest)
    (purpose : f.purpose = .request r) (done : f.phase = .done w)
    (ht : s.insts[r.inst]? = some (.translating t)) :
    ∃ s', step s = .next s' ∧
      s'.insts[r.inst]? = some (.translating (xlateS2 s.params.pageSize t r w).1) := by
  let waiting := s.turnTaken.dropFlight f.ticket
  let out := xlateS2 s.params.pageSize t r w
  refine ⟨(waiting.setInst r.inst out.1).emit (.xlate f.ticket out.2), ?_,
    setInst_at (s := waiting) ht _⟩
  rw [step_of_request_turn turn, requestStep_head (s := s.turnTaken) flights]
  simp only [flightStep, done, finishFlight, purpose]
  exact onInst_at (s := waiting) ht _

/-- Section S2 with a key still absent leaves the walk's entry (43 R143). -/
theorem tlbFind_xlateS2_inserted {z : PageSize} {r : Request} {new : TlbEntry}
    (absent : tlbFind t.tlb r.psid (pageOf z r.iova) = none) :
    tlbFind (xlateS2 z t r (.ok new)).1.tlb r.psid (pageOf z r.iova) = some new := by
  have inserts : (xlateS2 z t r (.ok new)).1 = (annotate z
      { t with tlb := tlbSet t.tlb r.psid (pageOf z r.iova) new } new r).1 := by
    simp only [xlateS2, absent]
  rw [inserts]
  obtain ⟨-, ⟨-, e⟩ | e⟩ :=
    annotate_cases z { t with tlb := tlbSet t.tlb r.psid (pageOf z r.iova) new } new r
  all_goals rw [e]; exact tlbFind_tlbSet_same _ _ _ _

end Race

/-- Settles O48: the first turn is T1, after which the key is absent; the second is S2 of the walk that has
ended, which inserts it. -/
theorem lateInsertSurvivesInvalidation : Obligations.LateInsertSurvivesInvalidation := by
  rintro s n t mask f r new ht pending queued idle flights purpose done rfl named turns
  let evicted := taskEvict s.params t mask
  have step₁ : step s = .next (s.turnTaken.setInst r.inst evicted) :=
    step_evict (by simp only [nextTurn, turns]) ht pending queued (loopBusyElsewhere_eq_false idle)
  obtain ⟨s', step₂, at₂⟩ := step_closing (s := s.turnTaken.setInst r.inst evicted)
    (by simp [nextTurn, turns]) flights purpose done (setInst_at (s := s.turnTaken) ht evicted)
  exact ⟨s', _, (run_next 1 step₁).trans (run_next 0 step₂), at₂,
    tlbFind_xlateS2_inserted (tlbFind_taskEvict named _ _ _)⟩

end Sys2Proof.Machine
end

section
/-! What a step adds to the flights and to the history: which operations start a walk, and where a call of a
collaborator comes from (20_memory R49, R57). -/

namespace Sys2Proof.Machine

/-- An output that is an answer to whoever asked, not a call of a collaborator. -/
def Output.isAnswer : Output → Bool
  | .readPhysical .. | .notifyUnmap .. => false
  | .readValue .. | .xlate .. | .resolved .. | .walk .. | .lookup .. | .irq .. => true

/-- A step adds at most one output to the history, one of those allowed. -/
def Logs (allowed : Output → Prop) (s s' : State) : Prop :=
  s'.history = s.history ∨ ∃ o, allowed o ∧ s'.history = o :: s.history

/-- The deferred task of instance `n` is due to notify the SID of the call. -/
def Notifies (n : Nat) (s : State) (o : Output) : Prop :=
  ∃ t mask sid owed start len, o = .notifyUnmap n sid start len ∧
    s.insts[n]? = some (.translating t) ∧ t.task = some ⟨mask, sid :: owed⟩

/-- An operation that starts a walk, unless it answers at once. -/
def StartsWalk (i : Instr) : Prop :=
  (∃ t0 t1 t2 t3 page, i = .walk t0 t1 t2 t3 page) ∨ ∃ n q r w iova, i = .xlate n q r w iova

/-- What an operation does to the flights and the history: it may start a walk, if it is one that does, and it
adds at most one output, an answer or, for `INV.RUN`, a notification. -/
structure ExecTrace (i : Instr) (s s' : State) : Prop where
  flights : s'.flights = s.flights ∨
    ∃ f, s'.flights = s.flights ++ [f] ∧ f.ticket = s.nextTicket ∧ StartsWalk i
  history : Logs (fun o => o.isAnswer = true ∨ ∃ n, i = .invRun n ∧ Notifies n s o) s s'

section Trace

variable {i : Instr} {n : Nat} {s s' : State}

theorem Logs.mono {p q : Output → Prop} (h : Logs p s s') (imp : ∀ o, p o → q o) : Logs q s s' :=
  h.imp_right fun ⟨o, ho, e⟩ => ⟨o, imp o ho, e⟩

/-- Nothing starts, nothing is added: what becomes of the instances and the counters is no matter. -/
theorem ExecTrace.silent (flights : s'.flights = s.flights) (history : s'.history = s.history) :
    ExecTrace i s s' :=
  ⟨.inl flights, .inl history⟩

theorem ExecTrace.answer {o : Output} (ans : o.isAnswer = true) (flights : s'.flights = s.flights)
    (history : s'.history = o :: s.history) : ExecTrace i s s' :=
  ⟨.inl flights, .inr ⟨o, .inl ans, history⟩⟩

theorem onInst_same_trace (h : onInst n s (fun _ => .next s) = .next s') : ExecTrace i s s' := by
  obtain ⟨t, -, e⟩ := onInst_next h
  cases e
  exact .silent rfl rfl

theorem onInst_emit_trace {o : Translating → Output} (ans : ∀ t, (o t).isAnswer = true)
    (h : onInst n s (fun t => .next (s.emit (o t))) = .next s') : ExecTrace i s s' := by
  obtain ⟨t, -, e⟩ := onInst_next h
  cases e
  exact .answer (ans t) rfl rfl

theorem onInst_setInst_trace {f : Translating → Translating}
    (h : onInst n s (fun t => .next (s.setInst n (f t))) = .next s') : ExecTrace i s s' := by
  obtain ⟨t, -, e⟩ := onInst_next h
  cases e
  exact .silent rfl rfl

theorem readTargetSet_trace {k : Nat} {half : Quad → Word}
    (h : readTargetSet n k s half = .next s') : ExecTrace i s s' := by
  obtain ⟨t, -, e⟩ := onInst_next h
  split at e <;> cases e
  exact .answer rfl rfl rfl

theorem writeTargetSet_trace {k : Nat} {f : Quad → Quad}
    (h : writeTargetSet n k s f = .next s') : ExecTrace i s s' := by
  obtain ⟨t, -, e⟩ := onInst_next h
  split at e <;> cases e
  exact .silent rfl rfl

theorem execRdUnlisted_trace {offset : BitVec 16} (h : execRdUnlisted n offset s = .next s') :
    ExecTrace i s s' := by
  obtain ⟨t, -, e⟩ := onInst_next h
  cases e
  exact .answer rfl rfl rfl

/-- `XLATE` answers in S1, or goes on as a flight. -/
theorem execXlate_trace {sid : Sid} {wantR wantW : Bool} {iova : Quad}
    (h : execXlate n sid wantR wantW iova s = .next s') :
    ExecTrace (.xlate n sid wantR wantW iova) s s' := by
  obtain ⟨t, -, e⟩ := onInst_next h
  split at e
  · dsimp only at e
    split at e <;> cases e
    · exact .answer rfl rfl rfl
    · exact ⟨.inr ⟨_, rfl, rfl, .inr ⟨_, _, _, _, _, rfl⟩⟩, .inl rfl⟩
  · cases e

/-- `WALK` answers at level 0, or goes on as a flight. -/
theorem execWalk_trace {t0 t1 t2 t3 : Word} {page : Quad}
    (h : execWalk t0 t1 t2 t3 page s = .next s') : ExecTrace (.walk t0 t1 t2 t3 page) s s' := by
  unfold execWalk at h
  dsimp only at h
  split at h <;> cases h
  · exact .answer rfl rfl rfl
  · exact ⟨.inr ⟨_, rfl, rfl, .inl ⟨_, _, _, _, _, rfl⟩⟩, .inl rfl⟩

/-- A step of a deferred task starts no walk. -/
theorem taskStep_flights (h : taskStep n s = .next s') : s'.flights = s.flights := by
  obtain ⟨t, mask, -, -, ⟨-, -, rfl⟩ | ⟨k, sid, rest, -, rfl⟩ | ⟨k, -, rfl⟩⟩ := taskStep_next h
  all_goals rfl

/-- A step of a deferred task makes no output but the notification it is due to make. -/
theorem taskStep_logs (h : taskStep n s = .next s') : Logs (Notifies n s) s s' := by
  obtain ⟨t, mask, ht, -, ⟨-, -, rfl⟩ | ⟨k, sid, rest, due, rfl⟩ | ⟨k, -, rfl⟩⟩ := taskStep_next h
  · exact .inl rfl
  · exact .inr ⟨_, ⟨t, k, sid, rest, _, _, rfl, ht, due⟩, rfl⟩
  · exact .inl rfl

theorem exec_trace (h : exec i s = .next s') : ExecTrace i s s' := by
  cases i with
  | rdParams | rdTlbOp | rdErrorStatus | rdErrorAddrLo | rdErrorAddrHi | rdConfig | rdSidRemap
  | rdTcr | rdTtbr | resolve | tlbLookup => exact onInst_emit_trace (fun _ => rfl) h
  | wrParams | wrErrorAddrLo | wrErrorAddrHi | wrUnlisted => exact onInst_same_trace h
  | wrTlbOp | wrErrorStatus | wrConfig | wrSidRemap | wrTcr | wrTtbr | reset | tlbInsert
  | tlbInvalidate | tlbClearAll | faultLatch => exact onInst_setInst_trace h
  | rdTargetSetLo | rdTargetSetHi => exact readTargetSet_trace h
  | wrTargetSetLo | wrTargetSetHi => exact writeTargetSet_trace h
  | rdUnlisted n offset => exact execRdUnlisted_trace (offset := offset) h
  | xlate => exact execXlate_trace h
  | invRun n =>
    exact ⟨.inl (taskStep_flights h), (taskStep_logs h).mono fun o due => .inr ⟨n, rfl, due⟩⟩
  | walk => exact execWalk_trace h
  | irqEval =>
    cases h
    exact .answer rfl rfl rfl

/-- A step of a request makes one output: a read of memory, or the answer it ends with. -/
theorem requestStep_logs {ticket : Nat} (h : requestStep ticket s = .next s') :
    (∃ f ∈ s.flights, f.ticket = ticket) ∧
      Logs (fun o => o.isAnswer = true ∨ ∃ a answer, o = .readPhysical a answer) s s' := by
  obtain ⟨f, hf, named, hs⟩ := requestStep_next h
  refine ⟨⟨f, hf, named⟩, .inr ?_⟩
  obtain ⟨level, base, -, rfl⟩ | ⟨w, -, -, rfl⟩ | ⟨w, r, t, -, -, -, rfl⟩ := flightStep_next hs
  · exact ⟨_, .inr ⟨_, _, rfl⟩, rfl⟩
  · exact ⟨_, .inl rfl, rfl⟩
  · exact ⟨_, .inl rfl, rfl⟩

end Trace

/-- Settles O57: the frame of the addressed instance, and the trace of the operation in the flights. -/
theorem operationsTouchOnlyTheirInstance : Obligations.OperationsTouchOnlyTheirInstance := by
  intro i s s' m h
  refine ⟨fun other => ?_, (exec_trace h).flights⟩
  obtain same | ⟨n, t, u, target, -, written⟩ := (exec_frame h).insts
  · rw [same]
  · rw [written, List.getElem?_set_ne fun e => other (target.trans (congrArg some e))]

/-- The deferred task of instance `n` moves: by a turn of the event loop, or by an `INV.RUN` event (log 11). -/
def TaskMoves (n : Nat) (s : State) : Prop :=
  nextTurn s = .task n ∨ ∃ packet rest, nextTurn s = .input ∧
    s.inputs = .event packet :: rest ∧ decode s.params packet = .ok (.invRun n)

/-- The source a call of a collaborator must have in the state it is made from (20_memory R49). -/
structure Sourced (s : State) (o : Output) : Prop where
  read : ∀ a answer, o = .readPhysical a answer →
    ∃ f ∈ s.flights, nextTurn s = .request f.ticket
  notify : ∀ n q start len, o = .notifyUnmap n q start len →
    (∃ t mask owed, s.insts[n]? = some (.translating t) ∧ t.task = some ⟨mask, q :: owed⟩) ∧
      TaskMoves n s

section Sources

variable {s s' : State}

theorem Sourced.of_isAnswer {o : Output} (h : o.isAnswer = true) : Sourced s o where
  read a answer e := by rw [e] at h; cases h
  notify n q start len e := by rw [e] at h; cases h

theorem Sourced.of_notifies {n : Nat} {o : Output} (h : Notifies n s o)
    (moves : TaskMoves n s) : Sourced s o := by
  obtain ⟨t, mask, sid, owed, start, len, rfl, ht, due⟩ := h
  refine ⟨(fun _ _ e => nomatch e), fun _ _ _ _ e => ?_⟩
  cases e
  exact ⟨⟨t, mask, owed, ht, due⟩, moves⟩

/-- Every step logs at most one output, a sourced one. -/
theorem step_logs_sourced (h : step s = .next s') : Logs (Sourced s) s s' := by
  obtain ⟨i, packet, rest, turn, decoded, port, he⟩ | ⟨a, v, rest, -, -, rfl⟩ |
    ⟨a, rest, -, -, rfl⟩ | ⟨k, turn, hk⟩ | ⟨n, turn, hn⟩ | ⟨-, rfl⟩ := step_next h
  · refine (exec_trace he).history.mono ?_
    rintro o (ans | ⟨n, rfl, due⟩)
    · exact .of_isAnswer ans
    · obtain ⟨event, -⟩ | ⟨-, internal⟩ := port
      · exact .of_notifies due (.inr ⟨packet, rest, turn, event, decoded⟩)
      · cases internal
  · exact .inl rfl
  · exact .inl rfl
  · obtain ⟨⟨f, hf, rfl⟩, logs⟩ := requestStep_logs hk
    refine logs.mono ?_
    rintro o (ans | ⟨a, answer, rfl⟩)
    · exact .of_isAnswer ans
    · exact ⟨fun _ _ _ => ⟨f, hf, turn⟩, fun _ _ _ _ e => nomatch e⟩
  · exact (taskStep_logs hn).mono fun o due => .of_notifies due (.inl turn)
  · exact .inl rfl

end Sources

/-- Settles O58: a step that logs nothing makes no call, and the one output of any other has its source. -/
theorem collaboratorCallsHaveOneSource : Obligations.CollaboratorCallsHaveOneSource := by
  intro s s' h
  obtain none_made | ⟨o, sourced, one_made⟩ := step_logs_sourced h
  · exact ⟨[], none_made, Nat.zero_le 1, fun _ _ made => absurd made List.not_mem_nil,
      fun _ _ _ _ made => absurd made List.not_mem_nil⟩
  · exact ⟨[o], one_made, le_rfl,
      fun a answer made => sourced.read a answer (List.mem_singleton.1 made).symm,
      fun n q start len made => sourced.notify n q start len (List.mem_singleton.1 made).symm⟩

end Sys2Proof.Machine
end

section
/-! The machine comes to rest: each step of a request or of a deferred task takes one off a count of the steps
still owed, and while any is owed the default order makes one (20_memory R68, 92 D34). -/

namespace Sys2Proof.Machine

/-- The steps a walk still takes, at most: a read for each level left, and its closing step. -/
def Phase.work : Phase → Nat
  | .reading .one _ => 3
  | .reading .two _ => 2
  | .done _ => 1

/-- The steps a walk in flight still takes. -/
def Flight.work (f : Flight) : Nat := f.phase.work

/-- The steps the deferred task of an instance still takes: what a running one owes, then T3; for a queued one
T1, at most sixteen notifications, and T3. -/
def Translating.work (t : Translating) : Nat :=
  match t.pendingInval, t.task with
  | none, _ => 0
  | some _, none => 18
  | some _, some k => k.owed.length + 1

theorem Translating.work_idle {t : Translating} (idle : t.pendingInval = none) : t.work = 0 := by
  simp only [Translating.work, idle]

theorem Translating.work_queued {t : Translating} {mask : Quad} (pending : t.pendingInval = some mask)
    (queued : t.task = none) : t.work = 18 := by
  simp only [Translating.work, pending, queued]

theorem Translating.work_running {t : Translating} {mask : Quad} {k : Task}
    (pending : t.pendingInval = some mask) (running : t.task = some k) :
    t.work = k.owed.length + 1 := by
  simp only [Translating.work, pending, running]

/-- The steps the deferred task of an instance of any kind still takes. -/
def Inst.work : Inst → Nat
  | .translating t => t.work
  | .companion | .unknown => 0

/-- The steps the machine still takes with no further input, at most. -/
def State.work (s : State) : Nat :=
  (s.flights.map Flight.work).sum + (s.insts.map Inst.work).sum

/-! ## Sums over lists -/

/-- A sum with one term replaced. -/
theorem sum_map_set {α : Type} (w : α → Nat) {l : List α} {n : Nat} {x : α} (h : l[n]? = some x)
    (y : α) : ((l.set n y).map w).sum + w x = (l.map w).sum + w y := by
  induction l generalizing n with
  | nil => cases h
  | cons z l ih =>
    cases n with
    | zero =>
      cases h
      simp only [List.set_cons_zero, List.map_cons, List.sum_cons]
      omega
    | succ n =>
      have tail := ih (n := n) h
      simp only [List.set_cons_succ, List.map_cons, List.sum_cons]
      omega

theorem sum_map_le {α : Type} (w : α → Nat) {l : List α} {b : Nat} (h : ∀ x ∈ l, w x ≤ b) :
    (l.map w).sum ≤ b * l.length := by
  have bound := List.sum_le_card_nsmul (l.map w) b (by simpa using h)
  simpa [Nat.mul_comm] using bound

/-! ## Bounds -/

theorem Phase.work_bounds (p : Phase) : 1 ≤ p.work ∧ p.work ≤ 3 := by
  unfold Phase.work
  split <;> decide

theorem notifyList_length_le (P : Params) (mask : Quad) : (notifyList P mask).length ≤ 16 := by
  unfold notifyList
  exact (List.length_filter_le _ _).trans (by simp)

theorem InstOk.work_le {P : Params} {t : Translating} (ok : InstOk P t) : t.work ≤ 18 := by
  unfold Translating.work
  split
  · decide
  · decide
  · rename_i k _ running
    have owed := (ok.task k running).2.length_le
    have all := notifyList_length_le P k.mask
    omega

section Machine

variable {s s' : State} {n : Nat} {t : Translating}

theorem Inv.work_le (inv : Inv s) : s.work ≤ 3 * s.flights.length + 18 * s.insts.length := by
  refine Nat.add_le_add (sum_map_le _ fun f _ => f.phase.work_bounds.2) (sum_map_le _ fun i hi => ?_)
  cases i with
  | translating t =>
    obtain ⟨n, hn⟩ := List.mem_iff_getElem?.1 hi
    exact (inv.insts n t hn).work_le
  | companion | unknown => exact Nat.zero_le _

/-! ## Every step of an agent is one step less -/

/-- New state of one instance changes the machine's work by what it changes that one's. -/
theorem work_setInst (ht : s.insts[n]? = some (.translating t)) (u : Translating) :
    (s.setInst n u).work + t.work = s.work + u.work := by
  have insts := sum_map_set Inst.work ht (.translating u)
  simp only [State.work, State.setInst_flights, State.setInst_insts, Inst.work] at insts ⊢
  omega

theorem work_setInst_lt (ht : s.insts[n]? = some (.translating t)) {u : Translating}
    (less : u.work < t.work) : (s.setInst n u).work < s.work := by
  have sum := work_setInst ht u
  omega

theorem work_setInst_eq (ht : s.insts[n]? = some (.translating t)) {u : Translating}
    (same : u.work = t.work) : (s.setInst n u).work = s.work :=
  Nat.add_right_cancel ((work_setInst ht u).trans (congrArg _ same))

/-- Each read takes a walk at least one level on. -/
theorem work_walkRead (z : PageSize) (level : Level) (base : Quad) (answer : Option Bytes8) :
    (walkRead z level answer).work < (Phase.reading level base).work := by
  cases answer with
  | none => cases level <;> simp [walkRead, Phase.work]
  | some bytes =>
    by_cases valid : pteValid (le64 bytes)
    · cases level <;> simp [walkRead, valid, Phase.work]
    · cases level <;> simp [walkRead, valid, Phase.work]

/-- A walk put in place of itself with less work left is less work for the machine. -/
theorem work_putFlight (tickets : (s.flights.map Flight.ticket).Nodup) {f g : Flight}
    (hf : f ∈ s.flights) (ticket : g.ticket = f.ticket) (less : g.work < f.work) :
    (s.putFlight g).work < s.work := by
  have only : ∀ h ∈ s.flights, h.ticket = g.ticket → h = f := fun h hh e =>
    List.inj_on_of_nodup_map tickets hh hf (e.trans ticket)
  have flights : ((s.putFlight g).flights.map Flight.work).sum
      < (s.flights.map Flight.work).sum := by
    rw [State.putFlight_flights, List.map_map]
    refine List.sum_lt_sum _ _ (fun h hh => ?_) ⟨f, hf, ?_⟩
    · by_cases e : h.ticket = g.ticket
      · rw [Function.comp_apply, if_pos e, only h hh e]
        exact less.le
      · rw [Function.comp_apply, if_neg e]
    · rwa [Function.comp_apply, if_pos ticket.symm]
  exact Nat.add_lt_add_right flights _

/-- A walk that has returned is off the machine's work. -/
theorem work_dropFlight {f : Flight} (hf : f ∈ s.flights) :
    (s.dropFlight f.ticket).work < s.work := by
  have parts := ((List.filter_append_perm (fun g => decide (g.ticket ≠ f.ticket))
    s.flights).map Flight.work).sum_eq
  have dropped : f.work ≤ ((s.flights.filter fun g =>
      !decide (g.ticket ≠ f.ticket)).map Flight.work).sum :=
    List.le_sum_of_mem (List.mem_map_of_mem (List.mem_filter.2 ⟨hf, by simp⟩))
  have owed : 1 ≤ f.work := f.phase.work_bounds.1
  rw [List.map_append, List.sum_append] at parts
  simp only [State.work, State.dropFlight_flights, State.dropFlight_insts]
  omega

/-- Section S2 leaves the queued mask and the task alone. -/
theorem work_xlateS2 (z : PageSize) (t : Translating) (r : Request) (w : WalkResult) :
    (xlateS2 z t r w).1.work = t.work := by
  obtain ⟨c, -, e | ⟨b, e, -⟩⟩ := xlateS2_cases z t r w
  all_goals rw [e]; rfl

theorem requestStep_work (inv : Inv s) {ticket : Nat} (h : requestStep ticket s = .next s') :
    s'.work < s.work := by
  obtain ⟨f, hf, -, hs⟩ := requestStep_next h
  obtain ⟨level, base, reading, rfl⟩ | ⟨w, -, -, rfl⟩ | ⟨w, r, t, -, -, ht, rfl⟩ :=
    flightStep_next hs
  · have shorter : (walkRead s.params.pageSize level (readPhysical s.mem s.holes
        (walkAddr s.params.pageSize level base f.page))).work < f.phase.work :=
      reading ▸ work_walkRead _ _ _ _
    exact work_putFlight inv.tickets hf rfl shorter
  · exact work_dropFlight hf
  · exact (work_setInst_eq (s := s.dropFlight f.ticket) ht (work_xlateS2 _ t r w)).trans_lt
      (work_dropFlight hf)

theorem taskStep_work (h : taskStep n s = .next s') : s'.work < s.work := by
  obtain ⟨t, mask, ht, pending, ⟨queued, -, rfl⟩ | ⟨k, sid, rest, running, rfl⟩ |
    ⟨k, running, rfl⟩⟩ := taskStep_next h
  · have all := notifyList_length_le s.params mask
    refine work_setInst_lt ht ?_
    rw [Translating.work_queued pending queued,
      Translating.work_running (t := taskEvict s.params t mask) pending rfl]
    exact Nat.lt_succ_of_le (Nat.succ_le_succ all)
  · refine work_setInst_lt (u := { t with task := some ⟨k, rest⟩ }) ht ?_
    rw [Translating.work_running pending running, Translating.work_running
      (t := { t with task := some ⟨k, rest⟩ }) pending rfl]
    exact Nat.lt_succ_self _
  · refine work_setInst_lt ht ?_
    rw [Translating.work_running pending running, Translating.work_idle (taskComplete_pendingInval t)]
    exact Nat.zero_lt_succ _

/-! ## While work is owed a step is made -/

theorem requestStep_enabled (inv : Inv s) {f : Flight} (hf : f ∈ s.flights) :
    ∃ s', requestStep f.ticket s = .next s' := by
  have found : ∃ g ∈ s.flights, requestStep f.ticket s = flightStep g s := by
    obtain ⟨g, hg⟩ : ∃ g, s.flights.find? (fun g => g.ticket == f.ticket) = some g :=
      Option.isSome_iff_exists.1 (List.find?_isSome.2 ⟨f, hf, beq_self_eq_true _⟩)
    exact ⟨g, List.mem_of_find?_eq_some hg, by simp only [requestStep, hg]⟩
  obtain ⟨g, hg, e⟩ := found
  rw [e, flightStep]
  split
  · exact ⟨_, rfl⟩
  · unfold finishFlight
    split
    · exact ⟨_, rfl⟩
    · rename_i r purpose
      obtain ⟨-, t, ht⟩ := (inv.flights g hg).request r purpose
      exact ⟨_, onInst_at (s := s.dropFlight g.ticket) ht _⟩

theorem taskStep_enabled {mask : Quad} (ht : s.insts[n]? = some (.translating t))
    (pending : t.pendingInval = some mask)
    (free : t.task = none → loopBusyElsewhere n s = false) : ∃ s', taskStep n s = .next s' := by
  rw [taskStep, onInst_at ht, pending]
  split
  · rename_i e
    cases e
  · rename_i queued
    rw [if_neg (by simp [free queued])]
    exact ⟨_, rfl⟩
  · exact ⟨_, rfl⟩
  · exact ⟨_, rfl⟩

/-! ## The default order -/

theorem running_iff {i : Inst} : i.running = true ↔ ∃ t k, i = .translating t ∧ t.task = some k := by
  cases i <;> simp [Inst.running, Option.isSome_iff_exists]

theorem owesTask_iff {i : Inst} :
    i.owesTask = true ↔ ∃ t mask, i = .translating t ∧ t.pendingInval = some mask := by
  cases i <;> simp [Inst.owesTask, Option.isSome_iff_exists]

/-- With no input left the default order moves a flight, or a task that can be moved, or finds rest. -/
theorem defaultTurn_cases (inv : Inv s) (inputs : s.inputs = []) :
    (∃ f ∈ s.flights, defaultTurn s = .request f.ticket) ∨
    (∃ n t mask, defaultTurn s = .task n ∧ s.insts[n]? = some (.translating t) ∧
      t.pendingInval = some mask ∧ (t.task = none → loopBusyElsewhere n s = false)) ∨
    s.quiescent := by
  unfold defaultTurn
  split
  · rename_i f rest flights
    exact .inl ⟨f, flights ▸ List.mem_cons_self, rfl⟩
  · rename_i none_flying
    split
    · rename_i n found
      obtain ⟨lt, running, -⟩ := List.findIdx?_eq_some_iff_getElem.1 found
      obtain ⟨t, k, e, task⟩ := running_iff.1 running
      have ht := e ▸ List.getElem?_eq_getElem lt
      exact .inr (.inl ⟨n, t, k.mask, rfl, ht, ((inv.insts n t ht).task k task).1,
        fun queued => absurd (queued.symm.trans task) nofun⟩)
    · rename_i none_running
      have idle : ∀ (m : Nat) (i : Inst), s.insts[m]? = some i → i.running = false :=
        fun m i hi => List.findIdx?_eq_none_iff.1 none_running i (List.mem_of_getElem? hi)
      simp only [inputs]
      split
      · rename_i n found
        obtain ⟨lt, owes, -⟩ := List.findIdx?_eq_some_iff_getElem.1 found
        obtain ⟨t, mask, e, pending⟩ := owesTask_iff.1 owes
        exact .inr (.inl ⟨n, t, mask, rfl, e ▸ List.getElem?_eq_getElem lt, pending,
          fun _ => loopBusyElsewhere_eq_false idle⟩)
      · rename_i none_owing
        refine .inr (.inr ⟨none_flying, fun n t ht => ?_⟩)
        simpa [Inst.owesTask] using
          List.findIdx?_eq_none_iff.1 none_owing _ (List.mem_of_getElem? ht)

/-- With no turn imposed and no input left, the machine is at rest or makes a step that leaves it less to do. -/
theorem quiescent_or_step (inv : Inv s) (turns : s.turns = []) (inputs : s.inputs = []) :
    s.quiescent ∨ ∃ s', step s = .next s' ∧ s'.work < s.work ∧ s'.turns = [] ∧ s'.inputs = [] := by
  have turn : nextTurn s = defaultTurn s := by simp only [nextTurn, turns]
  have nothing_imposed : ∀ {target s'}, EngineFrame target s.turnTaken s' →
      s'.turns = [] ∧ s'.inputs = [] := fun frame =>
    ⟨frame.turns.trans (congrArg List.tail turns), frame.inputs.trans inputs⟩
  obtain ⟨f, hf, order⟩ | ⟨n, t, mask, order, ht, pending, free⟩ | rest :=
    defaultTurn_cases inv inputs
  · obtain ⟨s', hs⟩ := requestStep_enabled inv.turnTaken hf
    obtain ⟨target, frame⟩ := requestStep_frame hs
    have less := requestStep_work inv.turnTaken hs
    exact .inr ⟨s', (step_of_request_turn (turn.trans order)).trans hs, less, nothing_imposed frame⟩
  · obtain ⟨s', hs⟩ := taskStep_enabled (s := s.turnTaken) ht pending free
    have less := taskStep_work hs
    exact .inr ⟨s', (step_of_task_turn (turn.trans order)).trans hs, less,
      nothing_imposed (taskStep_frame hs)⟩
  · exact .inl rest

/-- The machine comes to rest within the work it has. -/
theorem run_quiescent (inv : Inv s) (turns : s.turns = []) (inputs : s.inputs = []) :
    ∃ k s', k ≤ s.work ∧ run k s = .next s' ∧ s'.quiescent := by
  induction h : s.work using Nat.strong_induction_on generalizing s with
  | _ w ih =>
    subst h
    obtain rest | ⟨s₁, first, less, turns₁, inputs₁⟩ := quiescent_or_step inv turns inputs
    · exact ⟨0, s, Nat.zero_le _, rfl, rest⟩
    · obtain ⟨k, s', bound, runs, rest⟩ :=
        ih _ less (stepKeepsInvariant s s₁ inv first) turns₁ inputs₁ rfl
      exact ⟨k + 1, s', Nat.lt_of_le_of_lt bound less, (run_next k first).trans runs, rest⟩

end Machine

/-- Settles O59: the work of the machine, within the stated bound by the invariant, sinks to rest. -/
theorem machineComesToRest : Obligations.MachineComesToRest := by
  intro s inv turns inputs
  obtain ⟨k, s', bound, runs, rest⟩ := run_quiescent inv turns inputs
  exact ⟨k, s', bound.trans inv.work_le, runs, rest⟩

end Sys2Proof.Machine
end

section
/-! The register map (30_encoding R71, R74): the register found at an offset is the one of that offset, and every
register of a well-formed layout is found at its own. -/

namespace Sys2Proof

section RegisterMap

variable {P : Params} {o : BitVec 16} {r : Reg}

/-- The layout has the register: its target set exists, its unlisted offset is in no row of the map. -/
def Reg.wellFormed (P : Params) : Reg → Bool
  | .targetSetLo k | .targetSetHi k => decide (k < P.nSets)
  | .unlisted o => P.unlisted o
  | _ => true

/-- The register at an offset that does not depend on `N_SETS`. -/
def fixedRegAt (o : BitVec 16) : Option Reg :=
  if o = 0x000 then some .params
  else if o = 0x020 then some .tlbOp
  else if o = 0x040 then some .errorStatus
  else if o = 0x050 then some .errorAddrLo
  else if o = 0x054 then some .errorAddrHi
  else if o = 0x060 then some .config
  else if o &&& 0xFFF3 = 0x080 then some (.sidRemap (o.extractLsb' 2 2))
  else if o &&& 0xFFC3 = 0x100 then some (.tcr (o.extractLsb' 2 4))
  else if o &&& 0xFF03 = 0x200 then some (.ttbr (o.extractLsb' 4 4) (o.extractLsb' 2 2))
  else none

theorem decodeReg_eq (P : Params) (o : BitVec 16) : decodeReg P o =
    if o.extractLsb' 0 2 ≠ 0 then .error .misaligned
    else if P.windowSize ≤ o.toNat then .error .outsideWindow
    else .ok ((fixedRegAt o).getD ((setRegAt o 0 P.setOffsets).getD (.unlisted o))) := by
  unfold decodeReg fixedRegAt
  refine if_congr Iff.rfl rfl (if_congr Iff.rfl rfl ?_)
  split_ifs
  case neg => cases setRegAt o 0 P.setOffsets <;> rfl
  all_goals rfl

theorem aligned_iff : o.extractLsb' 0 2 = 0 ↔ o.toNat % 4 = 0 := by
  simp [← BitVec.toNat_inj]

theorem decodeReg_ok_iff : decodeReg P o = .ok r ↔ o.toNat % 4 = 0 ∧ o.toNat < P.windowSize ∧
    (fixedRegAt o).getD ((setRegAt o 0 P.setOffsets).getD (.unlisted o)) = r := by
  rw [decodeReg_eq, ← aligned_iff]
  split_ifs with misaligned outside
  · exact ⟨nofun, fun h => absurd h.1 misaligned⟩
  · exact ⟨nofun, fun h => absurd h.2.1 (Nat.not_lt.2 outside)⟩
  · rw [Except.ok.injEq]
    exact ⟨fun h => ⟨not_not.1 misaligned, Nat.not_le.1 outside, h⟩, fun ⟨_, _, h⟩ => h⟩

theorem Params.unlisted_iff : P.unlisted o = true ↔
    o.toNat % 4 = 0 ∧ o.toNat < P.windowSize ∧ fixedOffset o = false ∧ o ∉ P.setWords := by
  simp only [Params.unlisted, Bool.and_eq_true, beq_iff_eq, decide_eq_true_eq, Bool.not_eq_true',
    List.contains_eq_mem, decide_eq_false_iff_not, aligned_iff, and_assoc]

/-! ## The arrays -/

/-- A mask that keeps every bit from `j` up pins those bits. -/
theorem ushiftRight_eq_of_and_eq {m b : BitVec 16} {j : Nat}
    (hm : m >>> j = BitVec.allOnes 16 >>> j) (h : o &&& m = b) : o >>> j = b >>> j := by
  rw [← h, BitVec.ushiftRight_and_distrib, hm, ← BitVec.ushiftRight_and_distrib, BitVec.and_allOnes]

theorem toNat_div_of_and_eq {m b : BitVec 16} (j : Nat)
    (hm : m >>> j = BitVec.allOnes 16 >>> j) (h : o &&& m = b) : o.toNat / 2 ^ j = b.toNat / 2 ^ j := by
  simpa [Nat.shiftRight_eq_div_pow] using congrArg BitVec.toNat (ushiftRight_eq_of_and_eq hm h)

theorem toNat_offset_sidRemap (P : Params) (w : BitVec 2) :
    ((Reg.sidRemap w).offset P).toNat = 0x080 + 4 * w.toNat := by
  revert w
  show ∀ w : BitVec 2, (0x080 + w.setWidth 16 <<< 2 : BitVec 16).toNat = _
  decide

theorem toNat_offset_tcr (P : Params) (p : Sid) :
    ((Reg.tcr p).offset P).toNat = 0x100 + 4 * p.toNat := by
  revert p
  show ∀ p : Sid, (0x100 + p.setWidth 16 <<< 2 : BitVec 16).toNat = _
  decide

theorem toNat_offset_ttbr (P : Params) (p : Sid) (i : BitVec 2) :
    ((Reg.ttbr p i).offset P).toNat = 0x200 + 16 * p.toNat + 4 * i.toNat := by
  revert p i
  show ∀ (p : Sid) (i : BitVec 2), (0x200 + p.setWidth 16 <<< 4 + i.setWidth 16 <<< 2 : BitVec 16).toNat = _
  decide

theorem offset_sidRemap (P : Params) (al : o.toNat % 4 = 0) (h : o.toNat / 2 ^ 4 = 8) :
    (Reg.sidRemap (o.extractLsb' 2 2)).offset P = o := by
  apply BitVec.eq_of_toNat_eq
  rw [toNat_offset_sidRemap, BitVec.extractLsb'_toNat, Nat.shiftRight_eq_div_pow]
  omega

theorem offset_tcr (P : Params) (al : o.toNat % 4 = 0) (h : o.toNat / 2 ^ 6 = 4) :
    (Reg.tcr (o.extractLsb' 2 4)).offset P = o := by
  apply BitVec.eq_of_toNat_eq
  rw [toNat_offset_tcr, BitVec.extractLsb'_toNat, Nat.shiftRight_eq_div_pow]
  omega

theorem offset_ttbr (P : Params) (al : o.toNat % 4 = 0) (h : o.toNat / 2 ^ 8 = 2) :
    (Reg.ttbr (o.extractLsb' 4 4) (o.extractLsb' 2 2)).offset P = o := by
  apply BitVec.eq_of_toNat_eq
  rw [toNat_offset_ttbr, BitVec.extractLsb'_toNat, BitVec.extractLsb'_toNat,
    Nat.shiftRight_eq_div_pow, Nat.shiftRight_eq_div_pow]
  omega

/-! ## The registers at fixed offsets -/

/-- The registers of 30_encoding R74 whose offsets do not depend on `N_SETS`. -/
def Reg.isFixed : Reg → Bool
  | .targetSetLo _ | .targetSetHi _ | .unlisted _ => false
  | _ => true

theorem Reg.wellFormed_of_isFixed (P : Params) (h : r.isFixed = true) : r.wellFormed P = true := by
  cases r with
  | targetSetLo | targetSetHi | unlisted => cases h
  | _ => rfl

theorem fixedRegAt_some (P : Params) (al : o.toNat % 4 = 0) (h : fixedRegAt o = some r) :
    r.isFixed = true ∧ r.offset P = o := by
  unfold fixedRegAt at h
  split_ifs at h with c c c c c c c c c <;> cases h
  iterate 6 · exact ⟨rfl, c.symm⟩
  · exact ⟨rfl, offset_sidRemap P al (toNat_div_of_and_eq 4 (by decide) c)⟩
  · exact ⟨rfl, offset_tcr P al (toNat_div_of_and_eq 6 (by decide) c)⟩
  · exact ⟨rfl, offset_ttbr P al (toNat_div_of_and_eq 8 (by decide) c)⟩

/-- What the map turns on at the offset of a fixed register: it is found there, the offset is listed, 4-aligned
and below the smallest window. -/
abbrev Reg.FixedAt (r : Reg) (o : BitVec 16) : Prop :=
  fixedRegAt o = some r ∧ fixedOffset o = true ∧ o.toNat % 4 = 0 ∧ o.toNat < 0x300

theorem Reg.fixedAt_offset (P : Params) (h : r.isFixed = true) : r.FixedAt (r.offset P) := by
  cases r with
  | targetSetLo | targetSetHi | unlisted => cases h
  | params => exact (by decide : Reg.params.FixedAt 0x000)
  | tlbOp => exact (by decide : Reg.tlbOp.FixedAt 0x020)
  | errorStatus => exact (by decide : Reg.errorStatus.FixedAt 0x040)
  | errorAddrLo => exact (by decide : Reg.errorAddrLo.FixedAt 0x050)
  | errorAddrHi => exact (by decide : Reg.errorAddrHi.FixedAt 0x054)
  | config => exact (by decide : Reg.config.FixedAt 0x060)
  | sidRemap w =>
    exact (by decide : ∀ w, (Reg.sidRemap w).FixedAt (0x080 + w.setWidth 16 <<< 2)) w
  | tcr p =>
    exact (by decide : ∀ p, (Reg.tcr p).FixedAt (0x100 + p.setWidth 16 <<< 2)) p
  | ttbr p i =>
    exact (by decide : ∀ p i,
      (Reg.ttbr p i).FixedAt (0x200 + p.setWidth 16 <<< 4 + i.setWidth 16 <<< 2)) p i

/-- A listed offset is the offset of a fixed register. -/
theorem exists_fixed_of_fixedOffset (P : Params) (al : o.toNat % 4 = 0) (h : fixedOffset o = true) :
    ∃ r : Reg, r.isFixed = true ∧ r.offset P = o := by
  simp only [fixedOffset, Bool.or_eq_true, beq_iff_eq, Bool.and_eq_true, decide_eq_true_eq] at h
  obtain ((((((((c | c) | c) | c) | c) | c) | c) | c) | c) := h
  · exact ⟨.params, rfl, c.symm⟩
  · exact ⟨.tlbOp, rfl, c.symm⟩
  · exact ⟨.errorStatus, rfl, c.symm⟩
  · exact ⟨.errorAddrLo, rfl, c.symm⟩
  · exact ⟨.errorAddrHi, rfl, c.symm⟩
  · exact ⟨.config, rfl, c.symm⟩
  · exact ⟨_, rfl, offset_sidRemap P al (by omega)⟩
  · exact ⟨_, rfl, offset_tcr P al (by omega)⟩
  · exact ⟨_, rfl, offset_ttbr P al (by omega)⟩

/-- The masks of the decoder and the ranges of the layout name the same offsets. -/
theorem fixedRegAt_eq_none_iff (P : Params) (al : o.toNat % 4 = 0) :
    fixedRegAt o = none ↔ fixedOffset o = false := by
  constructor
  · intro absent
    by_contra listed
    obtain ⟨r, fixed, rfl⟩ := exists_fixed_of_fixedOffset P al (Bool.of_not_eq_false listed)
    exact absurd ((r.fixedAt_offset P fixed).1.symm.trans absent) nofun
  · intro unlisted
    cases found : fixedRegAt o with
    | none => rfl
    | some r =>
      obtain ⟨fixed, rfl⟩ := fixedRegAt_some P al found
      exact absurd ((r.fixedAt_offset P fixed).2.1.symm.trans unlisted) nofun

/-! ## The target sets -/

theorem exists_setOffsets {k : Nat} (h : k < P.nSets) : ∃ p, P.setOffsets[k]? = some p :=
  ⟨_, List.getElem?_eq_getElem h⟩

theorem offset_targetSet {k : Nat} {p : BitVec 16 × BitVec 16} (h : P.setOffsets[k]? = some p) :
    (Reg.targetSetLo k).offset P = p.1 ∧ (Reg.targetSetHi k).offset P = p.2 := by
  simp only [Reg.offset, h, and_self]

theorem lt_nSets {k : Nat} {p : BitVec 16 × BitVec 16} (h : P.setOffsets[k]? = some p) : k < P.nSets :=
  (List.getElem?_eq_some_iff.1 h).1

theorem setRegAt_some {k : Nat} {sets : List (BitVec 16 × BitVec 16)} (h : setRegAt o k sets = some r) :
    ∃ j p, sets[j]? = some p ∧
      (r = .targetSetLo (k + j) ∧ p.1 = o ∨ r = .targetSetHi (k + j) ∧ p.2 = o) := by
  induction sets generalizing k with
  | nil => cases h
  | cons p rest ih =>
    unfold setRegAt at h
    split_ifs at h with lo hi
    · cases h
      exact ⟨0, p, rfl, .inl ⟨rfl, lo.symm⟩⟩
    · cases h
      exact ⟨0, p, rfl, .inr ⟨rfl, hi.symm⟩⟩
    · obtain ⟨j, q, at_j, found⟩ := ih h
      rw [Nat.add_right_comm, Nat.add_assoc] at found
      exact ⟨j + 1, q, at_j, found⟩

theorem setRegAt_eq_none_iff {k : Nat} {sets : List (BitVec 16 × BitVec 16)} :
    setRegAt o k sets = none ↔ o ∉ sets.flatMap fun p => [p.1, p.2] := by
  induction sets generalizing k with
  | nil => simp [setRegAt]
  | cons p rest ih =>
    unfold setRegAt
    split_ifs with lo hi
    · simp [lo]
    · simp [hi]
    · simp [lo, hi, ih]

/-- Target-set words that do not overlap are each found at their offset. -/
theorem setRegAt_of_nodup {k j : Nat} {sets : List (BitVec 16 × BitVec 16)} {p : BitVec 16 × BitVec 16}
    (nodup : (sets.flatMap fun p => [p.1, p.2]).Nodup) (h : sets[j]? = some p) :
    setRegAt p.1 k sets = some (.targetSetLo (k + j)) ∧
      setRegAt p.2 k sets = some (.targetSetHi (k + j)) := by
  induction sets generalizing k j with
  | nil => cases h
  | cons q rest ih =>
    simp only [List.flatMap_cons, List.cons_append, List.nil_append, List.nodup_cons,
      List.mem_cons, not_or] at nodup
    obtain ⟨⟨apart, lo_fresh⟩, hi_fresh, nodup⟩ := nodup
    cases j with
    | zero =>
      cases h
      simp [setRegAt, Ne.symm apart]
    | succ j =>
      have at_j : rest[j]? = some p := h
      have named : ∀ o ∈ [p.1, p.2], o ∈ rest.flatMap fun p => [p.1, p.2] := fun o ho =>
        List.mem_flatMap.2 ⟨p, List.mem_of_getElem? at_j, ho⟩
      have other : ∀ o ∈ [p.1, p.2], o ≠ q.1 ∧ o ≠ q.2 := fun o ho =>
        ⟨fun e => lo_fresh (e ▸ named o ho), fun e => hi_fresh (e ▸ named o ho)⟩
      obtain ⟨lo, hi⟩ := ih (k := k + 1) nodup at_j
      rw [Nat.add_right_comm, Nat.add_assoc] at lo hi
      obtain ⟨l1, l2⟩ := other p.1 (by simp)
      obtain ⟨h1, h2⟩ := other p.2 (by simp)
      simp only [setRegAt, if_neg, l1, l2, h1, h2, lo, hi, not_false_eq_true, and_self]

/-! ## The whole map -/

/-- The register found at an offset is one the layout has, and the offset is its own. -/
theorem decodeReg_ok (h : decodeReg P o = .ok r) : r.offset P = o ∧ r.wellFormed P = true := by
  obtain ⟨aligned, inside, found⟩ := decodeReg_ok_iff.1 h
  cases fixed : fixedRegAt o with
  | some r' =>
    obtain rfl : r' = r := by simpa [fixed] using found
    obtain ⟨is_fixed, offset⟩ := fixedRegAt_some P aligned fixed
    exact ⟨offset, Reg.wellFormed_of_isFixed P is_fixed⟩
  | none =>
    cases in_sets : setRegAt o 0 P.setOffsets with
    | some r' =>
      obtain rfl : r' = r := by simpa [fixed, in_sets] using found
      obtain ⟨k, p, at_k, ⟨rfl, rfl⟩ | ⟨rfl, rfl⟩⟩ := setRegAt_some in_sets
      all_goals rw [Nat.zero_add]
      · exact ⟨(offset_targetSet at_k).1, decide_eq_true (lt_nSets at_k)⟩
      · exact ⟨(offset_targetSet at_k).2, decide_eq_true (lt_nSets at_k)⟩
    | none =>
      obtain rfl : Reg.unlisted o = r := by simpa [fixed, in_sets] using found
      exact ⟨rfl, Params.unlisted_iff.2
        ⟨aligned, inside, (fixedRegAt_eq_none_iff P aligned).1 fixed, setRegAt_eq_none_iff.1 in_sets⟩⟩

/-- The offset of a target-set word is found at it, since well-formed parameters keep it apart from every other
register. -/
theorem decodeReg_of_setRegAt (wf : P.wf) (mem : o ∈ P.setWords)
    (in_sets : setRegAt o 0 P.setOffsets = some r) : decodeReg P o = .ok r := by
  obtain ⟨-, -, -, -, -, words⟩ := wf
  obtain ⟨aligned, inside, apart⟩ := words o mem
  rw [aligned_iff] at aligned
  have fixed := (fixedRegAt_eq_none_iff P aligned).2 apart
  exact decodeReg_ok_iff.2 ⟨aligned, inside, by simp [fixed, in_sets]⟩

theorem decodeReg_targetSet {k : Nat} {p : BitVec 16 × BitVec 16} (wf : P.wf)
    (at_k : P.setOffsets[k]? = some p) :
    decodeReg P p.1 = .ok (.targetSetLo k) ∧ decodeReg P p.2 = .ok (.targetSetHi k) := by
  obtain ⟨-, -, -, -, nodup, -⟩ := id wf
  have named : ∀ o ∈ [p.1, p.2], o ∈ P.setWords := fun o ho =>
    List.mem_flatMap.2 ⟨p, List.mem_of_getElem? at_k, ho⟩
  have found := setRegAt_of_nodup (k := 0) nodup at_k
  rw [Nat.zero_add] at found
  exact ⟨decodeReg_of_setRegAt wf (named _ (by simp)) found.1,
    decodeReg_of_setRegAt wf (named _ (by simp)) found.2⟩

/-- Every register of a well-formed layout is found at its own offset. -/
theorem decodeReg_offset (wf : P.wf) (h : r.wellFormed P = true) :
    decodeReg P (r.offset P) = .ok r := by
  by_cases is_fixed : r.isFixed = true
  · obtain ⟨window, -⟩ := wf
    obtain ⟨fixed, -, aligned, inside⟩ := r.fixedAt_offset P is_fixed
    exact decodeReg_ok_iff.2 ⟨aligned, by omega, by simp [fixed]⟩
  cases r with
  | targetSetLo k =>
    obtain ⟨p, at_k⟩ := exists_setOffsets (of_decide_eq_true h)
    rw [(offset_targetSet at_k).1]
    exact (decodeReg_targetSet wf at_k).1
  | targetSetHi k =>
    obtain ⟨p, at_k⟩ := exists_setOffsets (of_decide_eq_true h)
    rw [(offset_targetSet at_k).2]
    exact (decodeReg_targetSet wf at_k).2
  | unlisted o =>
    obtain ⟨aligned, inside, apart, fresh⟩ := Params.unlisted_iff.1 h
    have fixed := (fixedRegAt_eq_none_iff P aligned).2 apart
    have in_sets := setRegAt_eq_none_iff (k := 0).2 fresh
    exact decodeReg_ok_iff.2 ⟨aligned, inside, by simp [Reg.offset, fixed, in_sets]⟩
  | _ => exact absurd rfl is_fixed

end RegisterMap

end Sys2Proof
end

section
/-! The decoder and the encoder (30_encoding R70 to R74, R91): what each part of the decoder accepts, that it accepts
only the packet of the operation it answers, and that it accepts the packet of every well-formed operation. -/

namespace Sys2Proof

section Packets

variable {P : Params} {d : BitVec 20} {o : BitVec 16} {ops : List Word} {i : Instr}

/-- The read of a register. -/
def Reg.read (n : Nat) : Reg → Instr
  | .params => .rdParams n
  | .tlbOp => .rdTlbOp n
  | .errorStatus => .rdErrorStatus n
  | .errorAddrLo => .rdErrorAddrLo n
  | .errorAddrHi => .rdErrorAddrHi n
  | .config => .rdConfig n
  | .targetSetLo k => .rdTargetSetLo n k
  | .targetSetHi k => .rdTargetSetHi n k
  | .sidRemap w => .rdSidRemap n w
  | .tcr p => .rdTcr n p
  | .ttbr p i => .rdTtbr n p i
  | .unlisted o => .rdUnlisted n o

/-- The write of a word to a register. -/
def Reg.write (n : Nat) (v : Word) : Reg → Instr
  | .params => .wrParams n v
  | .tlbOp => .wrTlbOp n v
  | .errorStatus => .wrErrorStatus n v
  | .errorAddrLo => .wrErrorAddrLo n v
  | .errorAddrHi => .wrErrorAddrHi n v
  | .config => .wrConfig n v
  | .targetSetLo k => .wrTargetSetLo n k v
  | .targetSetHi k => .wrTargetSetHi n k v
  | .sidRemap w => .wrSidRemap n w v
  | .tcr p => .wrTcr n p v
  | .ttbr p i => .wrTtbr n p i v
  | .unlisted o => .wrUnlisted n o v

@[simp] theorem descriptorOf_read (n : Nat) (r : Reg) :
    descriptorOf P (r.read n) = busDescriptor false (r.offset P) := by cases r <;> rfl

@[simp] theorem descriptorOf_write (n : Nat) (v : Word) (r : Reg) :
    descriptorOf P (r.write n v) = busDescriptor true (r.offset P) := by cases r <;> rfl

@[simp] theorem operandsOf_read (n : Nat) (r : Reg) : operandsOf (r.read n) = [instWord n] := by
  cases r <;> rfl

@[simp] theorem operandsOf_write (n : Nat) (v : Word) (r : Reg) :
    operandsOf (r.write n v) = [instWord n, v] := by cases r <;> rfl

@[simp] theorem wellFormed_read (n : Nat) (r : Reg) :
    (r.read n).wellFormed P = (instFits n && r.wellFormed P) := by
  cases r <;> simp [Reg.read, Instr.wellFormed, Reg.wellFormed]

@[simp] theorem wellFormed_write (n : Nat) (v : Word) (r : Reg) :
    (r.write n v).wellFormed P = (instFits n && r.wellFormed P) := by
  cases r <;> simp [Reg.write, Instr.wellFormed, Reg.wellFormed]

theorem decodeRead_eq (P : Params) (o : BitVec 16) (n : Word) :
    decodeRead P o [n] = (decodeReg P o).map (Reg.read n.toNat) := rfl

theorem decodeWrite_eq (P : Params) (o : BitVec 16) (n v : Word) :
    decodeWrite P o [n, v] = (decodeReg P o).map (Reg.write n.toNat v) := rfl

/-- A descriptor and operand words are those of a well-formed operation. -/
structure Spells (P : Params) (d : BitVec 20) (ops : List Word) (i : Instr) : Prop where
  descriptor : descriptorOf P i = d
  operands   : operandsOf i = ops
  wellFormed : i.wellFormed P = true

/-! ## What each part of the decoder accepts -/

theorem map_eq_ok_iff {α β : Type} {f : α → β} {x : Except DecodeError α} {y : β} :
    x.map f = .ok y ↔ ∃ a, x = .ok a ∧ f a = y := by
  cases x with
  | error e => exact ⟨nofun, fun ⟨_, h, _⟩ => nomatch h⟩
  | ok a =>
    constructor
    · exact fun h => ⟨a, rfl, Except.ok.inj h⟩
    · rintro ⟨_, ⟨⟩, rfl⟩
      rfl

theorem operandOf_ok {k : Nat} {w : Word} {b : BitVec k} (h : operandOf k w = .ok b) :
    b.setWidth 32 = w := by
  unfold operandOf at h
  split_ifs at h with lt
  cases h
  apply BitVec.eq_of_toNat_eq
  rw [BitVec.toNat_setWidth, BitVec.toNat_setWidth, Nat.mod_eq_of_lt lt, Nat.mod_eq_of_lt w.isLt]

@[simp] theorem instWord_of_word (n : Word) : instWord n.toNat = n := by
  rw [instWord, BitVec.ofNat_toNat, BitVec.setWidth_eq]

@[simp] theorem instFits_of_word (n : Word) : instFits n.toNat = true := decide_eq_true n.isLt

@[simp] theorem loWord_operand64 (lo hi : Word) : loWord (operand64 lo hi) = lo := loWord_quadOf lo hi

@[simp] theorem hiWord_operand64 (lo hi : Word) : hiWord (operand64 lo hi) = hi := hiWord_quadOf lo hi

@[simp] theorem operand64_halves (v : Quad) : operand64 (loWord v) (hiWord v) = v := quadOf_halves v

theorem decode_ok {packet : List Word} (h : decode P packet = .ok i) :
    ∃ (d : BitVec 20) (ops : List Word),
      packet = d.setWidth 32 :: ops ∧ decodeDescriptor P d ops = .ok i := by
  cases packet with
  | nil => cases h
  | cons w ops =>
    simp only [decode] at h
    split_ifs at h with wide
    refine ⟨_, ops, congrArg (· :: ops) (BitVec.eq_of_toNat_eq ?_), h⟩
    have high : w.toNat / 2 ^ 20 % 2 ^ 12 = 0 := by
      simpa [← BitVec.toNat_inj, Nat.shiftRight_eq_div_pow] using wide
    have lt := w.isLt
    rw [BitVec.toNat_setWidth, BitVec.extractLsb'_toNat, Nat.shiftRight_zero]
    omega

/-- Nothing is found at a bus descriptor's offset that is misaligned or outside the window. -/
theorem decodeReg_ne_ok_of_offset {r : Reg}
    (bad : d.extractLsb' 0 2 ≠ 0 ∨ P.windowSize ≤ (d.extractLsb' 0 16).toNat) :
    decodeReg P (d.extractLsb' 0 16) ≠ .ok r := by
  intro found
  obtain ⟨aligned, inside, -⟩ := decodeReg_ok_iff.1 found
  rw [← aligned_iff, BitVec.extractLsb'_extractLsb'_of_le (by decide)] at aligned
  exact bad.elim (absurd aligned) (Nat.not_le.2 inside)

theorem decodeRead_ok (h : decodeRead P o ops = .ok i) :
    ∃ n r, ops = [n] ∧ decodeReg P o = .ok r ∧ i = r.read n.toNat := by
  unfold decodeRead at h
  split at h
  · rename_i n
    obtain ⟨r, found, e⟩ := map_eq_ok_iff.1 ((decodeRead_eq P o n).symm.trans h)
    exact ⟨n, r, rfl, found, e.symm⟩
  · cases h

theorem decodeWrite_ok (h : decodeWrite P o ops = .ok i) :
    ∃ n v r, ops = [n, v] ∧ decodeReg P o = .ok r ∧ i = r.write n.toNat v := by
  unfold decodeWrite at h
  split at h
  · rename_i n v
    obtain ⟨r, found, e⟩ := map_eq_ok_iff.1 ((decodeWrite_eq P o n v).symm.trans h)
    exact ⟨n, v, r, rfl, found, e.symm⟩
  · cases h

theorem decodeDescriptor_ok (h : decodeDescriptor P d ops = .ok i) :
    (d.extractLsb' 17 3 = 0 ∧ ∃ r, decodeReg P (d.extractLsb' 0 16) = .ok r ∧
      ((∃ n, d.getLsbD 16 = false ∧ ops = [n] ∧ i = r.read n.toNat) ∨
        ∃ n v, d.getLsbD 16 = true ∧ ops = [n, v] ∧ i = r.write n.toNat v)) ∨
    (d.extractLsb' 17 3 = 1 ∧ decodeXlate d ops = .ok i) ∨
    (d.extractLsb' 17 3 = 2 ∧ decodeBare d .invRun ops = .ok i) ∨
    (d.extractLsb' 17 3 = 3 ∧ decodeBare d .reset ops = .ok i) ∨
    (d.extractLsb' 17 3 = 7 ∧ decodeInternal d ops = .ok i) := by
  unfold decodeDescriptor at h
  split at h
  case h_1 c =>
    refine .inl ⟨BitVec.eq_of_toNat_eq c, ?_⟩
    split_ifs at h with write
    · obtain ⟨n, v, r, words, found, e⟩ := decodeWrite_ok h
      exact ⟨r, found, .inr ⟨n, v, write, words, e⟩⟩
    · obtain ⟨n, r, words, found, e⟩ := decodeRead_ok h
      exact ⟨r, found, .inl ⟨n, Bool.of_not_eq_true write, words, e⟩⟩
  case h_2 c => exact .inr (.inl ⟨BitVec.eq_of_toNat_eq c, h⟩)
  case h_3 c => exact .inr (.inr (.inl ⟨BitVec.eq_of_toNat_eq c, h⟩))
  case h_4 c => exact .inr (.inr (.inr (.inl ⟨BitVec.eq_of_toNat_eq c, h⟩)))
  case h_5 c => exact .inr (.inr (.inr (.inr ⟨BitVec.eq_of_toNat_eq c, h⟩)))
  case h_6 => cases h

theorem decodeXlate_ok (h : decodeXlate d ops = .ok i) :
    d.extractLsb' 6 11 = 0 ∧ ∃ n lo hi, ops = [n, lo, hi] ∧
      i = .xlate n.toNat (d.extractLsb' 0 4) (d.getLsbD 4) (d.getLsbD 5) (operand64 lo hi) := by
  unfold decodeXlate at h
  split_ifs at h with zero
  split at h
  · cases h
    exact ⟨not_not.1 zero, _, _, _, rfl, rfl⟩
  · cases h

theorem decodeBare_ok {make : Nat → Instr} (h : decodeBare d make ops = .ok i) :
    d.extractLsb' 0 17 = 0 ∧ ∃ n, ops = [n] ∧ i = make n.toNat := by
  unfold decodeBare at h
  split_ifs at h with zero
  split at h
  · cases h
    exact ⟨not_not.1 zero, _, rfl, rfl⟩
  · cases h

theorem decodeInternal_ok (h : decodeInternal d ops = .ok i) :
    d.extractLsb' 4 13 = 0 ∧ decodeSub (d.extractLsb' 0 4).toNat ops = .ok i := by
  unfold decodeInternal at h
  split_ifs at h with zero
  exact ⟨not_not.1 zero, h⟩

theorem decodeSub_tlbInsert_iff {n psid lo hi blo bhi perm : Word} :
    decodeSub 3 [n, psid, lo, hi, blo, bhi, perm] = .ok i ↔
      ∃ p q, operandOf 4 psid = .ok p ∧ operandOf 2 perm = .ok q ∧
        .tlbInsert n.toNat p (operand64 lo hi) (operand64 blo bhi) q = i := by
  change (match operandOf 4 psid, operandOf 2 perm with
    | .ok p, .ok q => Except.ok (Instr.tlbInsert n.toNat p (operand64 lo hi) (operand64 blo bhi) q)
    | .error e, _ => .error e
    | _, .error e => .error e) = _ ↔ _
  constructor
  · intro h
    split at h
    · exact ⟨_, _, ‹_›, ‹_›, Except.ok.inj h⟩
    · cases h
    · cases h
  · rintro ⟨p, q, hp, hq, rfl⟩
    rw [hp, hq]

/-- An accepted internal packet has one of the eight sub-codes and is the packet of its operation. -/
theorem decodeSub_ok {sub : Nat} (h : decodeSub sub ops = .ok i) :
    sub < 8 ∧ Spells P (internalDescriptor (BitVec.ofNat 4 sub)) ops i := by
  match sub, ops, h with
  | 0, [n, sid], h =>
    obtain ⟨s, hs, rfl⟩ := map_eq_ok_iff.1 h
    exact ⟨by decide, rfl, by simp [operandsOf, operandOf_ok hs], instFits_of_word n⟩
  | 1, [t0, t1, t2, t3, lo, hi], h =>
    cases h
    exact ⟨by decide, rfl, by simp [operandsOf], rfl⟩
  | 2, [n, psid, lo, hi], h =>
    obtain ⟨s, hs, rfl⟩ := map_eq_ok_iff.1 h
    exact ⟨by decide, rfl, by simp [operandsOf, operandOf_ok hs], instFits_of_word n⟩
  | 3, [n, psid, lo, hi, blo, bhi, perm], h =>
    obtain ⟨p, q, hp, hq, rfl⟩ := decodeSub_tlbInsert_iff.1 h
    exact ⟨by decide, rfl, by simp [operandsOf, operandOf_ok hp, operandOf_ok hq], instFits_of_word n⟩
  | 4, [n, lo, hi], h =>
    cases h
    exact ⟨by decide, rfl, by simp [operandsOf], instFits_of_word n⟩
  | 5, [n], h =>
    cases h
    exact ⟨by decide, rfl, by simp [operandsOf], instFits_of_word n⟩
  | 6, [n, bits, lo, hi, psid], h =>
    obtain ⟨s, hs, rfl⟩ := map_eq_ok_iff.1 h
    exact ⟨by decide, rfl, by simp [operandsOf, operandOf_ok hs], instFits_of_word n⟩
  | 7, [], h =>
    cases h
    exact ⟨by decide, rfl, rfl, rfl⟩

/-! ## Descriptors are made of their fields -/

/-- The descriptor of a translate request (30_encoding R72). -/
def xlateDescriptor (sid : Sid) (wantR wantW : Bool) : BitVec 20 :=
  (((1#3 ++ 0#11) ++ BitVec.ofBool wantW) ++ BitVec.ofBool wantR) ++ sid

theorem ofBool_getLsbD (d : BitVec 20) (j : Nat) : BitVec.ofBool (d.getLsbD j) = d.extractLsb' j 1 := by
  rw [BitVec.getLsbD_eq_extractLsb']
  generalize d.extractLsb' j 1 = b
  revert b
  decide

theorem append_fields (d : BitVec 20) {j k l : Nat} (h : j = k + l) (m : Nat) :
    d.extractLsb' j m ++ d.extractLsb' k l = d.extractLsb' k (m + l) :=
  BitVec.extractLsb'_append_extractLsb'_eq_extractLsb' h

theorem busDescriptor_eta (c : d.extractLsb' 17 3 = 0) :
    busDescriptor (d.getLsbD 16) (d.extractLsb' 0 16) = d := by
  rw [busDescriptor, ofBool_getLsbD]
  calc
    _ = (d.extractLsb' 17 3 ++ d.extractLsb' 16 1) ++ d.extractLsb' 0 16 := by rw [c]; rfl
    _ = d := by
      rw [append_fields d (rfl : 17 = 16 + 1), append_fields d (rfl : 16 = 0 + 16),
        BitVec.extractLsb'_eq_self]

theorem xlateDescriptor_eta (c : d.extractLsb' 17 3 = 1) (z : d.extractLsb' 6 11 = 0) :
    xlateDescriptor (d.extractLsb' 0 4) (d.getLsbD 4) (d.getLsbD 5) = d := by
  rw [xlateDescriptor, ofBool_getLsbD, ofBool_getLsbD]
  calc
    _ = (((d.extractLsb' 17 3 ++ d.extractLsb' 6 11) ++ d.extractLsb' 5 1) ++ d.extractLsb' 4 1) ++
        d.extractLsb' 0 4 := by rw [c, z]; rfl
    _ = d := by
      rw [append_fields d (rfl : 17 = 6 + 11), append_fields d (rfl : 6 = 5 + 1),
        append_fields d (rfl : 5 = 4 + 1), append_fields d (rfl : 4 = 0 + 4),
        BitVec.extractLsb'_eq_self]

theorem bareDescriptor_eta {c : BitVec 3} (h : d.extractLsb' 17 3 = c) (z : d.extractLsb' 0 17 = 0) :
    c ++ 0#17 = d := by
  calc
    _ = d.extractLsb' 17 3 ++ d.extractLsb' 0 17 := by rw [h, z]; rfl
    _ = d := by rw [append_fields d (rfl : 17 = 0 + 17), BitVec.extractLsb'_eq_self]

theorem internalDescriptor_eta (c : d.extractLsb' 17 3 = 7) (z : d.extractLsb' 4 13 = 0) :
    internalDescriptor (d.extractLsb' 0 4) = d := by
  calc
    _ = (d.extractLsb' 17 3 ++ d.extractLsb' 4 13) ++ d.extractLsb' 0 4 := by rw [c, z]; rfl
    _ = d := by
      rw [append_fields d (rfl : 17 = 4 + 13), append_fields d (rfl : 4 = 0 + 4),
        BitVec.extractLsb'_eq_self]

/-- What the decoder accepts is the packet of the operation it answers. -/
theorem spells_of_decodeDescriptor_ok (h : decodeDescriptor P d ops = .ok i) : Spells P d ops i := by
  obtain ⟨c, r, found, access⟩ | ⟨c, h⟩ | ⟨c, h⟩ | ⟨c, h⟩ | ⟨c, h⟩ := decodeDescriptor_ok h
  · obtain ⟨offset, wf⟩ := decodeReg_ok found
    have eta := busDescriptor_eta c
    rw [← offset] at eta
    obtain ⟨n, bit, rfl, rfl⟩ | ⟨n, v, bit, rfl, rfl⟩ := access <;> rw [bit] at eta
    · exact ⟨by rw [descriptorOf_read, eta], by simp, by simp [wf]⟩
    · exact ⟨by rw [descriptorOf_write, eta], by simp, by simp [wf]⟩
  · obtain ⟨zero, n, lo, hi, rfl, rfl⟩ := decodeXlate_ok h
    exact ⟨xlateDescriptor_eta c zero, by simp [operandsOf], instFits_of_word n⟩
  · obtain ⟨zero, n, rfl, rfl⟩ := decodeBare_ok h
    exact ⟨bareDescriptor_eta c zero, by simp [operandsOf], instFits_of_word n⟩
  · obtain ⟨zero, n, rfl, rfl⟩ := decodeBare_ok h
    exact ⟨bareDescriptor_eta c zero, by simp [operandsOf], instFits_of_word n⟩
  · obtain ⟨zero, h⟩ := decodeInternal_ok h
    have spells := (decodeSub_ok (P := P) h).2
    rwa [BitVec.ofNat_toNat, BitVec.setWidth_eq, internalDescriptor_eta c zero] at spells

/-! ## Encoding, then decoding -/

theorem decode_encode_read (wf : P.wf) {n : Nat} {r : Reg} (h : (r.read n).wellFormed P = true) :
    decode P (encode P (r.read n)) = .ok (r.read n) := by
  rw [wellFormed_read, Bool.and_eq_true] at h
  obtain ⟨fits, listed⟩ := h
  rw [encode, descriptorOf_read, operandsOf_read, decode_bus_read, decodeRead_eq,
    decodeReg_offset wf listed, instWord_toNat fits]
  rfl

theorem decode_encode_write (wf : P.wf) {n : Nat} {v : Word} {r : Reg}
    (h : (r.write n v).wellFormed P = true) :
    decode P (encode P (r.write n v)) = .ok (r.write n v) := by
  rw [wellFormed_write, Bool.and_eq_true] at h
  obtain ⟨fits, listed⟩ := h
  rw [encode, descriptorOf_write, operandsOf_write, decode_bus_write, decodeWrite_eq,
    decodeReg_offset wf listed, instWord_toNat fits]
  rfl

theorem decode_xlate (P : Params) (sid : Sid) (wantR wantW : Bool) (n lo hi : Word) :
    decode P ((xlateDescriptor sid wantR wantW).setWidth 32 :: [n, lo, hi]) =
      .ok (.xlate n.toNat sid wantR wantW (operand64 lo hi)) := by
  have fields : ∀ (sid : Sid) (r w : Bool), let d := xlateDescriptor sid r w
    d.extractLsb' 17 3 = 1 ∧ d.extractLsb' 6 11 = 0 ∧ d.extractLsb' 0 4 = sid ∧
      d[4] = r ∧ d[5] = w := by decide
  obtain ⟨c, zero, hs, hr, hw⟩ := fields sid wantR wantW
  rw [decode_cons]
  simp [decodeDescriptor, decodeXlate, c, zero, hs, hr, hw]

theorem decode_encode_internal {k : BitVec 4} (descriptor : descriptorOf P i = internalDescriptor k)
    (operands : decodeSub k.toNat (operandsOf i) = .ok i) : decode P (encode P i) = .ok i := by
  obtain ⟨c, zero, sub⟩ := internalDescriptor_fields k
  rw [encode, decode_cons, descriptor]
  simpa [decodeDescriptor, decodeInternal, c, zero, sub] using operands

theorem decode_invRun (P : Params) (n : Word) :
    decode P ((2#3 ++ 0#17 : BitVec 20).setWidth 32 :: [n]) = .ok (.invRun n.toNat) := by
  rw [decode_cons]
  rfl

theorem decode_reset (P : Params) (n : Word) :
    decode P ((3#3 ++ 0#17 : BitVec 20).setWidth 32 :: [n]) = .ok (.reset n.toNat) := by
  rw [decode_cons]
  rfl

end Packets

/-- Settles O1: the register of an access is found at its own offset, and every other operand is read back from
the field or word it was written in. -/
theorem encodeThenDecode : Obligations.EncodeThenDecode := by
  intro P i wf h
  match i with
  | .rdParams _ => exact decode_encode_read (r := .params) wf h
  | .wrParams _ _ => exact decode_encode_write (r := .params) wf h
  | .rdTlbOp _ => exact decode_encode_read (r := .tlbOp) wf h
  | .wrTlbOp _ _ => exact decode_encode_write (r := .tlbOp) wf h
  | .rdTargetSetLo _ k => exact decode_encode_read (r := .targetSetLo k) wf h
  | .wrTargetSetLo _ k _ => exact decode_encode_write (r := .targetSetLo k) wf h
  | .rdTargetSetHi _ k => exact decode_encode_read (r := .targetSetHi k) wf h
  | .wrTargetSetHi _ k _ => exact decode_encode_write (r := .targetSetHi k) wf h
  | .rdErrorStatus _ => exact decode_encode_read (r := .errorStatus) wf h
  | .wrErrorStatus _ _ => exact decode_encode_write (r := .errorStatus) wf h
  | .rdErrorAddrLo _ => exact decode_encode_read (r := .errorAddrLo) wf h
  | .wrErrorAddrLo _ _ => exact decode_encode_write (r := .errorAddrLo) wf h
  | .rdErrorAddrHi _ => exact decode_encode_read (r := .errorAddrHi) wf h
  | .wrErrorAddrHi _ _ => exact decode_encode_write (r := .errorAddrHi) wf h
  | .rdConfig _ => exact decode_encode_read (r := .config) wf h
  | .wrConfig _ _ => exact decode_encode_write (r := .config) wf h
  | .rdSidRemap _ w => exact decode_encode_read (r := .sidRemap w) wf h
  | .wrSidRemap _ w _ => exact decode_encode_write (r := .sidRemap w) wf h
  | .rdTcr _ p => exact decode_encode_read (r := .tcr p) wf h
  | .wrTcr _ p _ => exact decode_encode_write (r := .tcr p) wf h
  | .rdTtbr _ p i => exact decode_encode_read (r := .ttbr p i) wf h
  | .wrTtbr _ p i _ => exact decode_encode_write (r := .ttbr p i) wf h
  | .rdUnlisted _ o => exact decode_encode_read (r := .unlisted o) wf h
  | .wrUnlisted _ o _ => exact decode_encode_write (r := .unlisted o) wf h
  | .xlate n sid wantR wantW iova =>
    have fits := instWord_toNat h
    have read := decode_xlate P sid wantR wantW (instWord n) (loWord iova) (hiWord iova)
    rw [fits, operand64_halves] at read
    exact read
  | .invRun n => exact (decode_invRun P (instWord n)).trans (by rw [instWord_toNat h])
  | .reset n => exact (decode_reset P (instWord n)).trans (by rw [instWord_toNat h])
  | .resolve n sid =>
    refine decode_encode_internal (k := 0) rfl
      (map_eq_ok_iff.2 ⟨_, operandOf_setWidth (by decide) sid, ?_⟩)
    rw [instWord_toNat h]
  | .walk t0 t1 t2 t3 page =>
    refine decode_encode_internal (k := 1) rfl (congrArg Except.ok ?_)
    rw [operand64_halves]
  | .tlbLookup n psid page =>
    refine decode_encode_internal (k := 2) rfl
      (map_eq_ok_iff.2 ⟨_, operandOf_setWidth (by decide) psid, ?_⟩)
    rw [instWord_toNat h, operand64_halves]
  | .tlbInsert n psid page block perm =>
    refine decode_encode_internal (k := 3) rfl (decodeSub_tlbInsert_iff.2
      ⟨_, _, operandOf_setWidth (by decide) psid, operandOf_setWidth (by decide) perm, ?_⟩)
    rw [instWord_toNat h, operand64_halves, operand64_halves]
  | .tlbInvalidate n mask =>
    refine decode_encode_internal (k := 4) rfl (congrArg Except.ok ?_)
    rw [instWord_toNat h, operand64_halves]
  | .tlbClearAll n =>
    refine decode_encode_internal (k := 5) rfl (congrArg Except.ok ?_)
    rw [instWord_toNat h]
  | .faultLatch n bits addr psid =>
    refine decode_encode_internal (k := 6) rfl
      (map_eq_ok_iff.2 ⟨_, operandOf_setWidth (by decide) psid, ?_⟩)
    rw [instWord_toNat h, operand64_halves]
  | .irqEval => exact decode_encode_internal (k := 7) rfl rfl

/-- Settles O2: every part of the decoder accepts only the packet of the operation it answers. -/
theorem decodeThenEncode : Obligations.DecodeThenEncode := by
  intro P packet i h
  obtain ⟨d, ops, rfl, accepted⟩ := decode_ok h
  obtain ⟨rfl, rfl, wf⟩ := spells_of_decodeDescriptor_ok accepted
  exact ⟨rfl, wf⟩

/-- Settles O3: a packet that decodes has a class of the table, the zero bits of its class, and an offset that is
4-aligned and inside the window. -/
theorem unspelledEventRefused : Obligations.UnspelledEventRefused := by
  intro P d ops unspelled
  rw [decode_cons]
  cases h : decodeDescriptor P d ops with
  | error e => exact ⟨e, rfl⟩
  | ok i =>
    exfalso
    obtain ⟨c, r, found, -⟩ | ⟨c, h⟩ | ⟨c, h⟩ | ⟨c, h⟩ | ⟨c, h⟩ := decodeDescriptor_ok h
    · have bad : d.extractLsb' 0 2 ≠ 0 ∨ P.windowSize ≤ (d.extractLsb' 0 16).toNat := by
        simpa [c] using unspelled
      exact decodeReg_ne_ok_of_offset bad found
    · have bad : d.extractLsb' 6 11 ≠ 0 := by simpa [c] using unspelled
      exact bad (decodeXlate_ok h).1
    · have bad : d.extractLsb' 0 17 ≠ 0 := by simpa [c] using unspelled
      exact bad (decodeBare_ok h).1
    · have bad : d.extractLsb' 0 17 ≠ 0 := by simpa [c] using unspelled
      exact bad (decodeBare_ok h).1
    · have bad : d.extractLsb' 4 13 ≠ 0 ∨ 8 ≤ (d.extractLsb' 0 4).toNat := by
        simpa [c] using unspelled
      obtain ⟨zero, h⟩ := decodeInternal_ok h
      obtain ⟨below, -⟩ := decodeSub_ok (P := P) h
      exact bad.elim (absurd zero) (Nat.not_le.2 below)

end Sys2Proof
end

section
/-! A turn that takes an input runs the packet it holds (20_memory R57). -/

namespace Sys2Proof.Machine

section Receive

variable {s : State} {packet : List Word} {rest : List Input} {i : Instr}

theorem step_event (turn : nextTurn s = .input) (inputs : s.inputs = .event packet :: rest)
    (h : decode s.params packet = .ok i) :
    step s = acceptOn false i { s with turns := s.turns.tail, inputs := rest } := by
  rw [step_of_input_turn turn]
  simp only [takeInput, receive, State.turnTaken, inputs, h]

theorem step_internal (turn : nextTurn s = .input) (inputs : s.inputs = .internal packet :: rest)
    (h : decode s.params packet = .ok i) :
    step s = acceptOn true i { s with turns := s.turns.tail, inputs := rest } := by
  rw [step_of_input_turn turn]
  simp only [takeInput, receive, State.turnTaken, inputs, h]

/-- A port runs the operations that are its own. -/
theorem acceptOn_own {internalPort : Bool} (own : i.isInternal = internalPort) :
    acceptOn internalPort i s = exec i s := by
  cases internalPort <;> simp only [acceptOn, own]

theorem acceptOn_outside_internal (h : i.isInternal = true) :
    acceptOn false i s = .refused .internalFromOutside := by
  simp only [acceptOn, h]

end Receive

/-- Settles O5: the step is `acceptOn` of the decoded operation on the port of the input it takes. -/
theorem stepRunsDecodedOperation : Obligations.StepRunsDecodedOperation := by
  intro s packet rest i turn decodes
  refine ⟨fun external inputs => ?_, fun internal inputs => ?_, fun internal inputs => ?_⟩
  · exact (step_event turn inputs decodes).trans (acceptOn_own external)
  · exact (step_internal turn inputs decodes).trans (acceptOn_own internal)
  · exact (step_event turn inputs decodes).trans (acceptOn_outside_internal internal)

end Sys2Proof.Machine
end

section
/-! The words of a walk as numbers: the index fields of a page (30_encoding R87, R88), the two table bases, and
the address of an entry, which never wraps (40_page_walker R107). -/

namespace Sys2Proof.Machine

/-! ## Index fields -/

/-- How many bits of a page index a level in memory takes (30_encoding R88). -/
def levelBits : PageSize → Nat
  | .k4 => 9
  | .k16 => 11

/-- A field cut out by its mask and moved down, as a number. -/
theorem toNat_and_ushiftRight {page mask : Quad} {width shift : Nat}
    (h : mask.toNat >>> shift = 2 ^ width - 1) :
    ((page &&& mask) >>> shift).toNat = page.toNat / 2 ^ shift % 2 ^ width := by
  rw [BitVec.toNat_ushiftRight, BitVec.toNat_and, Nat.shiftRight_and_distrib, h,
    Nat.and_two_pow_sub_one_eq_mod, Nat.shiftRight_eq_div_pow]

theorem toNat_levelIndex (z : PageSize) (level : Level) (page : Quad) :
    (levelIndex z level page).toNat = page.toNat / 2 ^ levelShift z level % 2 ^ levelBits z :=
  toNat_and_ushiftRight (by cases z <;> cases level <;> rfl)

theorem toNat_slotOf (z : PageSize) (page : Quad) :
    (slotOf z page).toNat = page.toNat / 2 ^ slotShift z % 4 := by
  have index : (slotIndex z page).toNat = page.toNat / 2 ^ slotShift z % 2 ^ 2 :=
    toNat_and_ushiftRight (by cases z <;> rfl)
  rw [slotOf, BitVec.toNat_setWidth, index]
  exact Nat.mod_mod _ 4

theorem levelIndex_lt (z : PageSize) (level : Level) (page : Quad) :
    (levelIndex z level page).toNat < 2 ^ 11 := by
  rw [toNat_levelIndex]
  have lt := Nat.mod_lt (page.toNat / 2 ^ levelShift z level) (Nat.two_pow_pos (levelBits z))
  exact lt.trans_le (by cases z <;> decide)

/-- The slot a page selects, read off the list of the four words. -/
theorem selectTtbr_eq {z : PageSize} {t0 t1 t2 t3 w : Word} {page : Quad}
    (h : [t0, t1, t2, t3][page.toNat / 2 ^ slotShift z % 4]? = some w) :
    selectTtbr z t0 t1 t2 t3 page = w := by
  rw [← toNat_slotOf] at h
  obtain ⟨-, rfl⟩ := List.getElem?_eq_some_iff.1 h
  rfl

/-! ## Table bases and entries -/

theorem ttbrBase_eq_ofNat (t : Word) :
    ttbrBase t = BitVec.ofNat 64 (t.toNat % 2 ^ 28 * 4096) := by
  have field : (t &&& 0x0FFFFFFF).toNat = t.toNat % 2 ^ 28 := by
    rw [BitVec.toNat_and]
    exact Nat.and_two_pow_sub_one_eq_mod t.toNat 28
  refine BitVec.eq_of_toNat_eq ?_
  rw [ttbrBase, BitVec.toNat_shiftLeft, BitVec.toNat_setWidth, field, BitVec.toNat_ofNat,
    Nat.shiftLeft_eq]
  omega

/-- The permission of a leaf entry is fixed by its two inhibit bits (30_encoding R85). -/
theorem eq_ptePerm {perm : Perm} {pte : Quad} (readable : perm.getLsbD 0 = !pte.getLsbD 8)
    (writable : perm.getLsbD 1 = !pte.getLsbD 7) : perm = ptePerm pte := by
  rw [ptePerm, ← readable, ← writable]
  exact (by decide : ∀ perm : Perm, perm = permOf (perm.getLsbD 0) (perm.getLsbD 1)) perm

theorem toNat_entryAddr {base index : Quad} (h : base.toNat + 8 * index.toNat < 2 ^ 64) :
    (entryAddr base index).toNat = base.toNat + 8 * index.toNat := by
  unfold entryAddr
  rw [BitVec.toNat_add, BitVec.toNat_mul]
  simp only [BitVec.reduceToNat]
  omega

/-- Settles O37: a base is below `2 ^ 40` at level 1 and below `2 ^ 36` at level 2, and an index below
`2 ^ 11`. -/
theorem walkAddressesNeverWrap : Obligations.WalkAddressesNeverWrap := by
  intro z t pte page
  have base₁ := ttbrBase_lt t
  have base₂ : (pteAddr z pte).toNat ≤ pteAddrMask.toNat := BitVec.le_def.1 (pteAddr_le z pte)
  have mask : pteAddrMask.toNat < 2 ^ 36 := by decide
  have index₁ := levelIndex_lt z .one page
  have index₂ := levelIndex_lt z .two page
  exact ⟨toNat_entryAddr (by omega), by omega, toNat_entryAddr (by omega), by omega⟩

/-! ## Bits above the fields -/

/-- Under a mask of low bits, pages that agree on those bits are the same. -/
theorem and_eq_and_of_low_bits {page page' mask : Quad} {bits : Nat} (low : mask.toNat < 2 ^ bits)
    (agree : ∀ b < bits, page.getLsbD b = page'.getLsbD b) : page &&& mask = page' &&& mask := by
  refine BitVec.eq_of_getLsbD_eq fun b _ => ?_
  rw [BitVec.getLsbD_and, BitVec.getLsbD_and]
  by_cases inside : b < bits
  · rw [agree b inside]
  · have clear : mask.getLsbD b = false :=
      Nat.testBit_lt_two_pow (low.trans_le (Nat.pow_le_pow_right (by decide) (Nat.le_of_not_lt inside)))
    rw [clear, Bool.and_false, Bool.and_false]

section HighBits

variable {z : PageSize} {page page' : Quad}
  (agree : ∀ b < vaBits z - pageShift z, page.getLsbD b = page'.getLsbD b)
include agree

theorem slotOf_congr : slotOf z page = slotOf z page' := by
  have masked : page &&& slotMask z = page' &&& slotMask z :=
    and_eq_and_of_low_bits (by cases z <;> decide) agree
  rw [slotOf, slotIndex, masked, ← slotIndex, ← slotOf]

theorem levelIndex_congr (level : Level) : levelIndex z level page = levelIndex z level page' := by
  have masked : page &&& levelMask z level = page' &&& levelMask z level :=
    and_eq_and_of_low_bits (by cases z <;> cases level <;> decide) agree
  rw [levelIndex, masked, ← levelIndex]

theorem walkFrom_congr (read : Quad → Option Bytes8) (t : Word) :
    walkFrom z read t page = walkFrom z read t page' := by
  simp only [walkFrom, walkLevels, levelIndex_congr agree]

end HighBits

/-- Settles O38: a walk looks at its page through the three index fields alone. -/
theorem walkIgnoresHighPageBits : Obligations.WalkIgnoresHighPageBits := by
  intro z read t0 t1 t2 t3 page page' agree
  have slot : selectTtbr z t0 t1 t2 t3 page = selectTtbr z t0 t1 t2 t3 page' := by
    rw [selectTtbr, slotOf_congr agree, ← selectTtbr]
  rw [slot]
  exact walkFrom_congr agree read _

end Sys2Proof.Machine
end

section
/-! The steps of a walk: its level-0 test (40_page_walker R99), and a turn of a flight, told apart from the others
by its ticket (R100 to R103, R105). -/

namespace Sys2Proof.Machine

/-! ## Level 0 -/

section Level0

variable {s : State} {t0 t1 t2 t3 w : Word} {page : Quad}

theorem walkStart_invalid (h : ttbrValid w = false) : walkStart w = .done (.fault .ttbrInvalid) := by
  rw [walkStart, h]
  rfl

theorem walkStart_valid (h : ttbrValid w = true) : walkStart w = .reading .one (ttbrBase w) := by
  rw [walkStart, if_pos h]

theorem exec_walk_invalid (slot : selectTtbr s.params.pageSize t0 t1 t2 t3 page = w)
    (h : ttbrValid w = false) :
    exec (.walk t0 t1 t2 t3 page) s = .next { s with
      nextTicket := s.nextTicket + 1
      history := .walk s.nextTicket (.fault .ttbrInvalid) :: s.history } := by
  simp only [exec, execWalk, slot, walkStart_invalid h, State.emit]

theorem exec_walk_valid (slot : selectTtbr s.params.pageSize t0 t1 t2 t3 page = w)
    (h : ttbrValid w = true) :
    exec (.walk t0 t1 t2 t3 page) s = .next { s with
      nextTicket := s.nextTicket + 1
      flights := s.flights ++
        [⟨s.nextTicket, .bareWalk, page, w, .reading .one (ttbrBase w)⟩] } := by
  simp only [exec, execWalk, slot, walkStart_valid h]

end Level0

/-- Settles O35: the slot is the word at the page's top field, and its valid bit decides. -/
theorem walkStartsAtSelectedSlot : Obligations.WalkStartsAtSelectedSlot := by
  intro s t0 t1 t2 t3 w page h
  have slot : selectTtbr s.params.pageSize t0 t1 t2 t3 page = w := by
    refine selectTtbr_eq ?_
    cases z : s.params.pageSize <;> rw [z] at h <;> exact h
  refine ⟨exec_walk_invalid slot, fun valid => ?_⟩
  rw [exec_walk_valid slot valid, ttbrBase_eq_ofNat]

/-! ## A turn of a flight -/

section FlightTurn

variable {s : State} {f : Flight}

/-- Where tickets are apart, a ticket names one flight. -/
theorem ticket_eq_iff (tickets : (s.flights.map Flight.ticket).Nodup) (hf : f ∈ s.flights)
    {g : Flight} (hg : g ∈ s.flights) : g.ticket = f.ticket ↔ g = f :=
  ⟨fun e => List.inj_on_of_nodup_map tickets hg hf e, fun e => e ▸ rfl⟩

theorem requestStep_of_mem (tickets : (s.flights.map Flight.ticket).Nodup) (hf : f ∈ s.flights) :
    requestStep f.ticket s = flightStep f s := by
  have found : s.flights.find? (fun g => g.ticket == f.ticket) = some f := by
    obtain ⟨g, hg⟩ : ∃ g, s.flights.find? (fun g => g.ticket == f.ticket) = some g :=
      Option.isSome_iff_exists.1 (List.find?_isSome.2 ⟨f, hf, beq_self_eq_true _⟩)
    have named : g.ticket = f.ticket := by simpa using List.find?_some hg
    rw [hg, (ticket_eq_iff tickets hf (List.mem_of_find?_eq_some hg)).1 named]
  simp only [requestStep, found]

theorem step_of_flight_turn (turn : nextTurn s = .request f.ticket)
    (tickets : (s.flights.map Flight.ticket).Nodup) (hf : f ∈ s.flights) :
    step s = flightStep f s.turnTaken :=
  (step_of_request_turn turn).trans (requestStep_of_mem (s := s.turnTaken) tickets hf)

theorem putFlight_flights_of_mem (tickets : (s.flights.map Flight.ticket).Nodup)
    (hf : f ∈ s.flights) (phase : Phase) :
    (s.putFlight { f with phase := phase }).flights
      = s.flights.map fun g => if g = f then { f with phase := phase } else g := by
  rw [State.putFlight_flights]
  refine List.map_congr_left fun g hg => ?_
  simp only [ticket_eq_iff tickets hf hg]

theorem dropFlight_flights_of_mem (tickets : (s.flights.map Flight.ticket).Nodup)
    (hf : f ∈ s.flights) :
    (s.dropFlight f.ticket).flights = s.flights.filter fun g => decide (g ≠ f) := by
  rw [State.dropFlight_flights]
  refine List.filter_congr fun g hg => ?_
  simp only [ne_eq, ticket_eq_iff tickets hf hg]

/-- A turn of a walk that is to read a level is one read, and the phase the answer leads to. -/
theorem flightStep_reading {level : Level} {base : Quad} (reading : f.phase = .reading level base)
    (s : State) :
    flightStep f s = .next ((s.putFlight { f with
        phase := walkRead s.params.pageSize level
          (readPhysical s.mem s.holes (walkAddr s.params.pageSize level base f.page)) }).emit
      (.readPhysical (walkAddr s.params.pageSize level base f.page)
        (readPhysical s.mem s.holes (walkAddr s.params.pageSize level base f.page)))) := by
  simp only [flightStep, reading]

/-- A closing turn of a bare walk answers its result. -/
theorem flightStep_bareWalk {w : WalkResult} (purpose : f.purpose = .bareWalk)
    (done : f.phase = .done w) (s : State) :
    flightStep f s = .next ((s.dropFlight f.ticket).emit (.walk f.ticket w)) := by
  simp only [flightStep, done, finishFlight, purpose]

end FlightTurn

/-! ## One level -/

section OneLevel

variable {z : PageSize} {level : Level} {bytes : Bytes8}

theorem walkRead_invalid (h : pteValid (le64 bytes) = false) :
    walkRead z level (some bytes) = .done (.fault .pteInvalid) := by
  simp only [walkRead, h, Bool.false_eq_true, if_false]

theorem walkRead_one (h : pteValid (le64 bytes) = true) :
    walkRead z .one (some bytes) = .reading .two (pteAddr z (le64 bytes)) := by
  simp only [walkRead, h, if_true]

theorem walkRead_two (h : pteValid (le64 bytes) = true) :
    walkRead z .two (some bytes)
      = .done (.ok ⟨pteAddr z (le64 bytes), ptePerm (le64 bytes)⟩) := by
  simp only [walkRead, h, if_true]

end OneLevel

/-- The address of an entry in arithmetic terms (40_page_walker R100). -/
theorem walkAddr_eq (z : PageSize) (level : Level) (base page : Quad) :
    walkAddr z level base page = base + 8 *
      BitVec.ofNat 64 (page.toNat / 2 ^ levelShift z level % 2 ^ levelBits z) := by
  rw [← toNat_levelIndex, BitVec.ofNat_toNat, BitVec.setWidth_eq]
  rfl

/-- Settles O36: the turn is the flight's own; its address and the phase it leaves are `walkAddr` and `walkRead`
in arithmetic terms. -/
theorem walkTurnReadsOneLevel : Obligations.WalkTurnReadsOneLevel := by
  intro s f level base a phase turn hf tickets reading ha hphase
  have address : walkAddr s.params.pageSize level base f.page = a := by
    rw [ha, walkAddr_eq]
    cases s.params.pageSize <;> cases level <;> simp [levelShift, levelBits]
  have leaves : walkRead s.params.pageSize level (readPhysical s.mem s.holes a) = phase := by
    generalize readPhysical s.mem s.holes a = answer at hphase
    cases answer with
    | none => exact hphase.symm
    | some bytes =>
      dsimp only at hphase
      split at hphase
      · rename_i invalid
        rw [hphase, walkRead_invalid invalid]
      · rename_i valid
        have valid : pteValid (le64 bytes) = true := Bool.eq_true_of_not_eq_false valid
        obtain ⟨target, ht, hphase⟩ := hphase
        have block : pteAddr s.params.pageSize (le64 bytes) = target := by
          rw [ht]
          cases s.params.pageSize <;> rfl
        cases level with
        | one => rw [hphase, walkRead_one valid, block]
        | two =>
          obtain ⟨perm, hphase, readable, writable⟩ := hphase
          rw [hphase, walkRead_two valid, block, eq_ptePerm readable writable]
  have moved := putFlight_flights_of_mem tickets hf phase
  rw [step_of_flight_turn turn tickets hf, flightStep_reading reading]
  simp only [State.turnTaken_params, State.turnTaken_mem, State.turnTaken_holes, address, leaves]
  rw [← moved]
  rfl

end Sys2Proof.Machine
end

section
/-! A walk with no other agent acting: turn by turn it reads what the pseudocode reads, and ends in what the
pseudocode answers (40_page_walker R102). -/

namespace Sys2Proof.Machine

/-- A walk in some phase ends in a result after so many reads, against a memory that answers `read`. -/
inductive WalkEnds (z : PageSize) (read : Quad → Option Bytes8) (page : Quad) :
    Nat → Phase → WalkResult → Prop where
  | done (w : WalkResult) : WalkEnds z read page 0 (.done w) w
  | level {k : Nat} {level : Level} {base : Quad} {w : WalkResult}
      (rest : WalkEnds z read page k (walkRead z level (read (walkAddr z level base page))) w) :
      WalkEnds z read page (k + 1) (.reading level base) w

section Pseudocode

variable {z : PageSize} {read : Quad → Option Bytes8} {page base : Quad} {level : Level}
  {bytes : Bytes8}

theorem WalkEnds.readError (failed : read (walkAddr z level base page) = none) :
    WalkEnds z read page 1 (.reading level base) (.fault .levelReadError) :=
  .level (by rw [failed]; exact .done _)

theorem WalkEnds.pteInvalid (answer : read (walkAddr z level base page) = some bytes)
    (invalid : pteValid (le64 bytes) = false) :
    WalkEnds z read page 1 (.reading level base) (.fault .pteInvalid) :=
  .level (by rw [answer, walkRead_invalid invalid]; exact .done _)

theorem WalkEnds.block (answer : read (walkAddr z .two base page) = some bytes)
    (valid : pteValid (le64 bytes) = true) :
    WalkEnds z read page 1 (.reading .two base)
      (.ok ⟨pteAddr z (le64 bytes), ptePerm (le64 bytes)⟩) :=
  .level (by rw [answer, walkRead_two valid]; exact .done _)

theorem WalkEnds.descend {k : Nat} {w : WalkResult}
    (answer : read (walkAddr z .one base page) = some bytes)
    (valid : pteValid (le64 bytes) = true)
    (rest : WalkEnds z read page k (.reading .two (pteAddr z (le64 bytes))) w) :
    WalkEnds z read page (k + 1) (.reading .one base) w :=
  .level (by rw [answer, walkRead_one valid]; exact rest)

/-- From level 1 a walk ends as the pseudocode does, after at most two reads. -/
theorem walkEnds_walkLevels (z : PageSize) (read : Quad → Option Bytes8) (base page : Quad) :
    ∃ k ≤ 2, WalkEnds z read page k (.reading .one base) (walkLevels z read base page) := by
  unfold walkLevels
  split
  · rename_i failed
    exact ⟨1, by decide, .readError failed⟩
  · rename_i b1 answer₁
    split
    · rename_i invalid
      exact ⟨1, by decide, .pteInvalid answer₁ (by simpa using invalid)⟩
    · rename_i valid₁
      refine ⟨2, le_rfl, .descend answer₁ (by simpa using valid₁) ?_⟩
      split
      · rename_i failed
        exact .readError failed
      · rename_i answer₂
        split
        · rename_i invalid
          exact .pteInvalid answer₂ (by simpa using invalid)
        · rename_i valid₂
          exact .block answer₂ (by simpa using valid₂)

end Pseudocode

section Alone

variable {s : State}

/-- With no turn imposed, a flight that is alone moves. -/
theorem step_alone (turns : s.turns = []) (f : Flight) (h : List Output) :
    step { s with flights := [f], history := h }
      = flightStep f { s with flights := [f], history := h } := by
  let alone : State := { s with flights := [f], history := h }
  have turn : nextTurn alone = .request f.ticket := by simp only [alone, nextTurn, turns, defaultTurn]
  have same : alone.turnTaken = alone := by simp only [State.turnTaken, alone, turns, List.tail_nil]
  rw [step_of_flight_turn turn (List.nodup_singleton _) (List.mem_singleton_self f), same]

/-- Alone, a walk takes its reads, and stands with its result: whatever runs on from there. -/
theorem run_walkEnds (turns : s.turns = []) (f : Flight) {k : Nat} {phase : Phase} {w : WalkResult}
    (ends : WalkEnds s.params.pageSize (readPhysical s.mem s.holes) f.page k phase w)
    (h : List Output) : ∃ reads : List Output, reads.length = k ∧
      (∀ o ∈ reads, ∃ a, o = .readPhysical a (readPhysical s.mem s.holes a)) ∧
      ∀ j, run (k + j) { s with flights := [{ f with phase := phase }], history := h }
        = run j { s with flights := [{ f with phase := .done w }], history := reads ++ h } := by
  induction ends generalizing h with
  | done w => exact ⟨[], rfl, by simp, fun j => by rw [Nat.zero_add, List.nil_append]⟩
  | @level k level base w rest ih =>
    let a := walkAddr s.params.pageSize level base f.page
    let read := Output.readPhysical a (readPhysical s.mem s.holes a)
    obtain ⟨reads, count, source, runs⟩ := ih (read :: h)
    refine ⟨reads ++ [read], by simp [count], fun o ho => ?_, fun j => ?_⟩
    · obtain ho | rfl := List.mem_append.1 ho |>.imp_right List.mem_singleton.1
      · exact source o ho
      · exact ⟨a, rfl⟩
    · have first := (step_alone turns { f with phase := .reading level base } h).trans
        (flightStep_reading rfl _)
      rw [Nat.add_right_comm, run_next (k + j) first, List.append_assoc]
      refine Eq.trans ?_ (runs j)
      simp [State.putFlight, State.emit, a, read]

end Alone

/-- With no other agent acting, a walk answers the pseudocode's result (40_page_walker R102). -/
theorem run_walk_alone {s : State} (turns : s.turns = []) (flights : s.flights = [])
    (t0 t1 t2 t3 : Word) (page : Quad) :
    ∃ s₀ k reads, exec (.walk t0 t1 t2 t3 page) s = .next s₀ ∧ k ≤ 3 ∧ reads.length ≤ 2 ∧
      (∀ o ∈ reads, ∃ a, o = Output.readPhysical a (readPhysical s.mem s.holes a)) ∧
      run k s₀ = .next { s with
        nextTicket := s.nextTicket + 1
        history := .walk s.nextTicket (walkFrom s.params.pageSize (readPhysical s.mem s.holes)
          (selectTtbr s.params.pageSize t0 t1 t2 t3 page) page) :: (reads ++ s.history) } := by
  generalize slot : selectTtbr s.params.pageSize t0 t1 t2 t3 page = w
  cases valid : ttbrValid w with
  | false =>
    refine ⟨_, 0, [], exec_walk_invalid slot valid, by decide, by decide, by simp, ?_⟩
    simp only [run, walkFrom, valid, Bool.false_eq_true, if_false, List.nil_append]
  | true =>
    let issued : State := { s with nextTicket := s.nextTicket + 1 }
    let f : Flight := ⟨s.nextTicket, .bareWalk, page, w, .reading .one (ttbrBase w)⟩
    obtain ⟨k, le, ends⟩ := walkEnds_walkLevels s.params.pageSize (readPhysical s.mem s.holes)
      (ttbrBase w) page
    obtain ⟨reads, rfl, source, runs⟩ := run_walkEnds (s := issued) turns f ends s.history
    refine ⟨_, reads.length + 1, reads, exec_walk_valid slot valid, Nat.succ_le_succ le, le,
      source, ?_⟩
    rw [flights, List.nil_append]
    refine (runs 1).trans ?_
    rw [run_next 0 ((step_alone (s := issued) turns _ _).trans (flightStep_bareWalk rfl rfl _))]
    simp [run, walkFrom, valid, State.emit, State.dropFlight, f, issued]

/-- Settles O60: the closing turn is the flight's own, and alone the walk runs as `WalkEnds` says. -/
theorem bareWalkAnswersItsResult : Obligations.BareWalkAnswersItsResult := by
  intro s
  refine ⟨fun f w turn hf tickets purpose done => ?_, fun t0 t1 t2 t3 page turns flights =>
    run_walk_alone turns flights t0 t1 t2 t3 page⟩
  have dropped := dropFlight_flights_of_mem tickets hf
  rw [step_of_flight_turn turn tickets hf, flightStep_bareWalk purpose done, ← dropped]
  rfl

end Sys2Proof.Machine
end

section
/-! The cache as a map: what its operations answer and store under each key (41_translation_cache R109 to R112),
and which steps can take an entry out of it (R113, R115). -/

namespace Sys2Proof.Machine

/-! ## Membership -/

section Membership

variable {α β : Type} {rank : α → Nat} [DecidableEq α]

/-- A map in canonical form answers exactly the entries it lists. -/
theorem mapFind_eq_some_iff {m : List (α × β)} (hm : Rising rank m) (k : α) (v : β) :
    mapFind k m = some v ↔ (k, v) ∈ m :=
  ⟨mapFind_mem, mapFind_of_mem hm⟩

/-- A key's value set: the new entry, and every entry of another key. -/
theorem mem_mapSet_iff (inj : ∀ x y : α, rank x = rank y → x = y) {m : List (α × β)}
    (hm : Rising rank m) (k : α) (v : β) (x : α × β) :
    x ∈ mapSet rank k v m ↔ x = (k, v) ∨ (x.1 ≠ k ∧ x ∈ m) := by
  obtain ⟨j, w⟩ := x
  rw [← mapFind_eq_some_iff (rising_mapSet k v hm)]
  by_cases e : j = k
  · subst e
    simp [mapFind_mapSet_same, eq_comm]
  · simp [mapFind_mapSet_other inj e, mapFind_eq_some_iff hm, e]

end Membership

theorem mem_tlbEvict {c : Tlb} {mask : Quad} {x : TlbKey × TlbEntry} :
    x ∈ tlbEvict c mask ↔ x ∈ c ∧ mask.getLsbD x.1.psid.toNat = false := by
  simp [tlbEvict]

/-- Settles O30: the lookup is `tlbFind`, and a cache in canonical form answers the entries it lists. -/
theorem tlbLookupAnswersKey : Obligations.TlbLookupAnswersKey := by
  intro s n t q page ht rising
  exact ⟨tlbFind t.tlb q page, onInst_at ht _, mapFind_eq_some_iff rising _⟩

/-- Settles O31: the insert is `tlbSet`, which keeps the canonical form. -/
theorem tlbInsertSetsKey : Obligations.TlbInsertSetsKey := by
  intro s n t q page block perm ht rising
  exact ⟨tlbSet t.tlb q page ⟨block, perm⟩, onInst_at ht _, rising_mapSet _ _ rising,
    mem_mapSet_iff tlbRank_inj rising _ _⟩

/-- Settles O32: the invalidate is `tlbEvict`, a filter of the list; the clear leaves the empty one. -/
theorem tlbInvalidateRemovesSids : Obligations.TlbInvalidateRemovesSids := by
  intro s n t mask ht
  exact ⟨⟨tlbEvict t.tlb mask, onInst_at ht _, List.filter_sublist, fun _ => mem_tlbEvict⟩,
    onInst_at ht _⟩

/-! ## Caches that keep their entries -/

theorem CacheKeeps.of_eq {c c' : Tlb} (h : c' = c) : CacheKeeps c c' := by
  subst h
  exact fun _ _ _ found => found

/-- An insert under an absent key overwrites nothing. -/
theorem cacheKeeps_tlbSet {c : Tlb} {p : Sid} {page : Quad} (absent : tlbFind c p page = none)
    (new : TlbEntry) : CacheKeeps c (tlbSet c p page new) := by
  intro q page' e found
  have other : ¬(q = p ∧ page' = page) := by
    rintro ⟨rfl, rfl⟩
    rw [absent] at found
    cases found
  rw [tlbFind_tlbSet_other c new other, found]

/-- An eviction loses entries of the SIDs its mask names, and no others. -/
theorem named_of_lost_by_tlbEvict {c : Tlb} {mask : Quad} {q : Sid} {page : Quad} {e : TlbEntry}
    (cached : tlbFind c q page = some e) (lost : tlbFind (tlbEvict c mask) q page ≠ some e) :
    mask.getLsbD q.toNat = true := by
  by_contra unnamed
  rw [tlbFind_tlbEvict, if_neg unnamed] at lost
  exact lost cached

theorem writeTlbOp_tlb (nSets : Nat) (t : Translating) (val : Word) :
    (writeTlbOp nSets t val).tlb = t.tlb := by
  obtain ⟨e, -⟩ | ⟨-, -, -, e⟩ := writeTlbOp_cases nSets t val <;> rw [e]

/-- A request that ends in S1 inserts nothing and removes nothing. -/
theorem xlateS1_tlb {P : Params} {t t' : Translating} {r : Request} {res : XlateResult}
    (h : xlateS1 P t r = .finished t' res) : t'.tlb = t.tlb := by
  obtain rfl | ⟨b, rfl, -⟩ := xlateS1_finished h
  · rfl
  · exact latchFault_tlb _ _ _ _

/-- Section S2 inserts only under a key that is still absent (43 R143). -/
theorem cacheKeeps_xlateS2 (z : PageSize) (t : Translating) (r : Request) (w : WalkResult) :
    CacheKeeps t.tlb (xlateS2 z t r w).1.tlb := by
  obtain ⟨c, cache, ended⟩ := xlateS2_cases z t r w
  have left : (xlateS2 z t r w).1.tlb = c := by
    obtain e | ⟨b, e, -⟩ := ended
    all_goals rw [e]
    exact latchFault_tlb _ _ _ _
  rw [left]
  obtain rfl | ⟨absent, new, -, rfl⟩ := cache
  · exact .of_eq rfl
  · exact cacheKeeps_tlbSet absent new

/-! ## Steps that keep every entry -/

/-- Every instance that is Translating before and after still caches what it cached. -/
def EntriesKept (s s' : State) : Prop :=
  ∀ (n : Nat) (t t' : Translating), s.insts[n]? = some (.translating t) →
    s'.insts[n]? = some (.translating t') → CacheKeeps t.tlb t'.tlb

section Kept

variable {s s' : State} {n : Nat} {t u : Translating}

theorem EntriesKept.of_insts (h : s'.insts = s.insts) : EntriesKept s s' := by
  intro n t t' ht ht'
  rw [h, ht] at ht'
  cases ht'
  exact .of_eq rfl

/-- New state of an instance whose cache keeps its entries, whatever else of the machine changes. -/
theorem EntriesKept.of_written (ht : s.insts[n]? = some (.translating t))
    (written : s'.insts = (s.setInst n u).insts) (keeps : CacheKeeps t.tlb u.tlb) :
    EntriesKept s s' := by
  intro m v v' hv hv'
  rw [written] at hv'
  by_cases e : m = n
  · subst e
    rw [setInst_at ht] at hv'
    rw [ht] at hv
    cases hv
    cases hv'
    exact keeps
  · rw [setInst_other e, hv] at hv'
    cases hv'
    exact .of_eq rfl

theorem onInst_same_entriesKept (h : onInst n s (fun _ => .next s) = .next s') :
    EntriesKept s s' := by
  obtain ⟨t, -, e⟩ := onInst_next h
  cases e
  exact .of_insts rfl

theorem busRead_entriesKept {value : Translating → Word} (h : busRead n s value = .next s') :
    EntriesKept s s' := by
  obtain ⟨t, -, rfl⟩ := busRead_next h
  exact .of_insts rfl

/-- A register write that leaves the cache alone loses no entry. -/
theorem busWrite_entriesKept {f : Translating → Translating} (h : busWrite n s f = .next s')
    (same : ∀ t, (f t).tlb = t.tlb) : EntriesKept s s' := by
  obtain ⟨t, ht, rfl⟩ := busWrite_next h
  exact .of_written ht rfl (.of_eq (same t))

theorem readTargetSet_entriesKept {k : Nat} {half : Quad → Word}
    (h : readTargetSet n k s half = .next s') : EntriesKept s s' := by
  obtain ⟨t, -, e⟩ := onInst_next h
  split at e <;> cases e
  exact .of_insts rfl

theorem writeTargetSet_entriesKept {k : Nat} {f : Quad → Quad}
    (h : writeTargetSet n k s f = .next s') : EntriesKept s s' := by
  obtain ⟨t, ht, e⟩ := onInst_next h
  split at e <;> cases e
  exact .of_written ht rfl (.of_eq rfl)

theorem execRdUnlisted_entriesKept {offset : BitVec 16}
    (h : execRdUnlisted n offset s = .next s') : EntriesKept s s' := by
  obtain ⟨t, -, e⟩ := onInst_next h
  cases e
  exact .of_insts rfl

theorem execXlate_entriesKept {sid : Sid} {wantR wantW : Bool} {iova : Quad}
    (h : execXlate n sid wantR wantW iova s = .next s') : EntriesKept s s' := by
  obtain ⟨t, ht, e⟩ := onInst_next h
  split at e
  · dsimp only at e
    split at e <;> cases e
    · rename_i t' res finished
      exact .of_written ht rfl (.of_eq (xlateS1_tlb finished))
    · exact .of_insts rfl
  · cases e

/-- Of the operations the outside can issue, only `RESET` and `INV.RUN` can take an entry out of a cache. -/
theorem exec_entriesKept {i : Instr} (external : i.isInternal = false)
    (h : exec i s = .next s') :
    EntriesKept s s' ∨ ∃ n, i = .reset n ∨ i = .invRun n := by
  cases i with
  | reset n => exact .inr ⟨n, .inl rfl⟩
  | invRun n => exact .inr ⟨n, .inr rfl⟩
  | rdParams | rdTlbOp | rdErrorStatus | rdErrorAddrLo | rdErrorAddrHi | rdConfig | rdSidRemap
  | rdTcr | rdTtbr => exact .inl (busRead_entriesKept h)
  | wrParams | wrErrorAddrLo | wrErrorAddrHi | wrUnlisted =>
    exact .inl (onInst_same_entriesKept h)
  | wrErrorStatus | wrConfig | wrSidRemap | wrTcr | wrTtbr =>
    exact .inl (busWrite_entriesKept h fun _ => rfl)
  | wrTlbOp => exact .inl (busWrite_entriesKept h fun _ => writeTlbOp_tlb _ _ _)
  | rdTargetSetLo | rdTargetSetHi => exact .inl (readTargetSet_entriesKept h)
  | wrTargetSetLo | wrTargetSetHi => exact .inl (writeTargetSet_entriesKept h)
  | rdUnlisted n offset => exact .inl (execRdUnlisted_entriesKept (offset := offset) h)
  | xlate => exact .inl (execXlate_entriesKept h)
  | resolve | walk | tlbLookup | tlbInsert | tlbInvalidate | tlbClearAll | faultLatch | irqEval =>
    cases external

theorem requestStep_entriesKept {ticket : Nat} (h : requestStep ticket s = .next s') :
    EntriesKept s s' := by
  obtain ⟨f, -, -, hs⟩ := requestStep_next h
  obtain ⟨level, base, -, rfl⟩ | ⟨w, -, -, rfl⟩ | ⟨w, r, t, -, -, ht, rfl⟩ := flightStep_next hs
  · exact .of_insts rfl
  · exact .of_insts rfl
  · exact .of_written ht rfl (cacheKeeps_xlateS2 _ t r w)

/-- An entry that a step of a deferred task loses goes in T1 of its own instance's task, whose mask names its
SID. -/
theorem taskStep_lost {m : Nat} {t' : Translating} {q : Sid} {page : Quad} {e : TlbEntry}
    (h : taskStep m s = .next s') (ht : s.insts[n]? = some (.translating t))
    (ht' : s'.insts[n]? = some (.translating t')) (cached : tlbFind t.tlb q page = some e)
    (lost : tlbFind t'.tlb q page ≠ some e) :
    ∃ mask, t.pendingInval = some mask ∧ t.task = none ∧ mask.getLsbD q.toNat = true ∧
      t'.task.isSome = true := by
  have not_kept : ¬EntriesKept s s' := fun kept => lost (kept n t t' ht ht' q page e cached)
  obtain ⟨v, mask, hv, pending, ⟨queued, -, rfl⟩ | ⟨k, sid, rest, -, rfl⟩ | ⟨k, -, rfl⟩⟩ :=
    taskStep_next h
  · by_cases own : n = m
    · subst own
      rw [setInst_at hv] at ht'
      rw [ht] at hv
      cases hv
      cases ht'
      exact ⟨mask, pending, queued, named_of_lost_by_tlbEvict cached lost, rfl⟩
    · rw [setInst_other own, ht] at ht'
      cases ht'
      exact absurd cached lost
  · exact absurd (.of_written hv rfl (.of_eq rfl)) not_kept
  · exact absurd (.of_written hv rfl (.of_eq rfl)) not_kept

end Kept

/-- Settles O34: every step keeps the entries of every instance but a step of a deferred task, which loses some in
T1 alone, and a `RESET`, which touches only its own instance. -/
theorem entriesLeaveOnlyByInvalidation : Obligations.EntriesLeaveOnlyByInvalidation := by
  intro s s' n t t' q page e h outside ht ht' cached lost
  have not_kept : ¬EntriesKept s s' := fun kept => lost (kept n t t' ht ht' q page e cached)
  obtain ⟨i, packet, rest, turn, decoded, port, he⟩ | ⟨a, v, rest, -, -, rfl⟩ |
    ⟨a, rest, -, -, rfl⟩ | ⟨k, -, hk⟩ | ⟨m, -, hm⟩ | ⟨-, rfl⟩ := step_next h
  · obtain ⟨event, external⟩ | ⟨internal, -⟩ := port
    · obtain kept | ⟨m, rfl | rfl⟩ := exec_entriesKept external he
      · exact (not_kept kept).elim
      · by_cases own : m = n
        · exact .inr ⟨packet, rest, turn, event, own ▸ decoded⟩
        · have untouched := (operationsTouchOnlyTheirInstance _ _ _ n he).1
            fun target => own (Option.some.inj target)
          rw [untouched] at ht'
          cases ht.symm.trans ht'
          exact absurd cached lost
      · exact .inl (taskStep_lost he ht ht' cached lost)
    · exact absurd (outside (.internal packet) (internal ▸ List.mem_cons_self)) Bool.false_ne_true
  · exact absurd (.of_insts rfl) not_kept
  · exact absurd (.of_insts rfl) not_kept
  · exact (not_kept (requestStep_entriesKept (s := s.turnTaken) hk)).elim
  · exact .inl (taskStep_lost hm ht ht' cached lost)
  · exact absurd (.of_insts rfl) not_kept

end Sys2Proof.Machine
end

section
/-! A request served from the cache: section S1 on a hit, and what a request that was granted a block leaves
behind (41_translation_cache R116). -/

namespace Sys2Proof.Machine

section Served

variable {P : Params} {t u : Translating} {r : Request} {e : TlbEntry}

/-- PermissionAnnotate changes nothing but the fault record. -/
theorem annotate_keeps (z : PageSize) (t : Translating) (e : TlbEntry) (r : Request) :
    (annotate z t e r).1.tlb = t.tlb ∧ (annotate z t e r).1.remap = t.remap ∧
      (annotate z t e r).1.tcr = t.tcr := by
  obtain ⟨-, ⟨-, h⟩ | h⟩ := annotate_cases z t e r
  all_goals rw [h]; exact ⟨rfl, rfl, rfl⟩

/-- A request that is not bypassed and hits ends in S1 with the entry's annotation (43 R141). -/
theorem xlateS1_hit (enabled : bypassApplies P t r.psid = false)
    (cached : tlbFind t.tlb r.psid (pageOf P.pageSize r.iova) = some e) :
    xlateS1 P t r = .finished (annotate P.pageSize t e r).1 (annotate P.pageSize t e r).2 := by
  simp only [xlateS1, enabled, cached, Bool.false_eq_true, if_false]

/-- The bypass check looks at the stream's policy word alone. -/
theorem bypassApplies_congr (h : u.tcr = t.tcr) (p : Sid) :
    bypassApplies P u p = bypassApplies P t p := by
  simp only [bypassApplies, h]

/-- A request that was granted a block was not bypassed, left the entry it used in the cache, and changed neither
the remap table nor a policy word. -/
theorem xlateAlone_granted {read : Quad → Option Bytes8} {res : XlateResult} {block : Quad}
    (h : xlateAlone P read t r = (u, res)) (granted : res.translated = some block) :
    u.remap = t.remap ∧ u.tcr = t.tcr ∧ bypassApplies P t r.psid = false ∧
      ∃ e, tlbFind u.tlb r.psid (pageOf P.pageSize r.iova) = some e ∧
        res = (annotate P.pageSize u e r).2 := by
  unfold xlateAlone at h
  dsimp only at h
  split at h
  · cases h
    cases granted
  · rename_i enabled
    have enabled : bypassApplies P t r.psid = false := by simpa using enabled
    split at h
    · rename_i e cached
      obtain ⟨tlb, remap, tcr⟩ := annotate_keeps P.pageSize t e r
      cases h
      exact ⟨remap, tcr, enabled, e, tlb ▸ cached, rfl⟩
    · split at h
      · cases h
        cases granted
      · rename_i new walked
        obtain ⟨tlb, remap, tcr⟩ := annotate_keeps P.pageSize
          { t with tlb := tlbSet t.tlb r.psid (pageOf P.pageSize r.iova) new } new r
        cases h
        exact ⟨remap, tcr, enabled, new, tlb ▸ tlbFind_tlbSet_same _ _ _ _, rfl⟩

/-- An `XLATE` that ends in S1 answers in the step that receives it (20_memory R59). -/
theorem exec_xlate_finished {s : State} {n : Nat} {sid : Sid} {wantR wantW : Bool} {iova : Quad}
    {t' : Translating} {res : XlateResult} (ht : s.insts[n]? = some (.translating t))
    (port : s.params.sidPresent.getLsbD sid.toNat = true)
    (finished : xlateS1 s.params t (requestOf n sid wantR wantW iova t) = .finished t' res) :
    exec (.xlate n sid wantR wantW iova) s = .next
      (({ s with nextTicket := s.nextTicket + 1 }.setInst n t').emit (.xlate s.nextTicket res)) := by
  have present : sidPresent s.params sid = true := port
  simp only [exec, execXlate, onInst_at ht, present, if_true, finished]

end Served

/-- Settles O46: the first request leaves its entry and the stream's policy, so the second hits in S1. -/
theorem secondRequestServedFromCache : Obligations.SecondRequestServedFromCache := by
  intro s n t u req res block hu port inst psid first granted
  obtain ⟨remap, tcr, enabled, e, cached, rfl⟩ := xlateAlone_granted first granted
  have same : requestOf n req.sid req.wantR req.wantW req.iova u = req := by
    rw [requestOf, remap, ← psid, ← inst]
  have hit : xlateS1 s.params u (requestOf n req.sid req.wantR req.wantW req.iova u)
      = .finished (annotate s.params.pageSize u e req).1 (annotate s.params.pageSize u e req).2 := by
    rw [same]
    exact xlateS1_hit ((bypassApplies_congr tcr req.psid).trans enabled) cached
  obtain ⟨tlb, -, -⟩ := annotate_keeps s.params.pageSize u e req
  exact ⟨_, exec_xlate_finished hu port hit, rfl, rfl, _, rfl, tlb⟩

end Sys2Proof.Machine
end

section
/-! The register operations of StreamConfig (42_stream_config): the instance an operation is run on, where the
bytes and words of the tables stand, and what the reads answer and the writes store. -/

namespace Sys2Proof.Machine

/-! ## The addressed instance -/

/-- An operation that addresses an instance is run on that instance, whatever it does there. -/
theorem exec_eq_onInst {i : Instr} {n : Nat} (h : i.target = some n) (s : State) :
    ∃ f, exec i s = onInst n s f := by
  cases i with
  | walk | irqEval => cases h
  | rdParams | wrParams | rdTlbOp | wrTlbOp | rdTargetSetLo | wrTargetSetLo | rdTargetSetHi
  | wrTargetSetHi | rdErrorStatus | wrErrorStatus | rdErrorAddrLo | wrErrorAddrLo | rdErrorAddrHi
  | wrErrorAddrHi | rdConfig | wrConfig | rdSidRemap | wrSidRemap | rdTcr | wrTcr | rdTtbr | wrTtbr
  | rdUnlisted | wrUnlisted | xlate | invRun | reset | resolve | tlbLookup | tlbInsert
  | tlbInvalidate | tlbClearAll | faultLatch =>
    cases h
    exact ⟨_, rfl⟩

/-- Settles O6: an operation is run on the instance it addresses, and `onInst` refuses what is not Translating. -/
theorem nonTranslatingRefused : Obligations.NonTranslatingRefused := by
  intro i s n target
  obtain ⟨f, run⟩ := exec_eq_onInst target s
  rw [run]
  refine ⟨?_, fun absent => onInst_none absent f⟩
  rintro (companion | unknown)
  · exact onInst_companion companion f
  · exact onInst_unknown unknown f

/-- Settles O7: none of the four looks at the instance's state or at its operands. -/
theorem ignoredWritesChangeNothing : Obligations.IgnoredWritesChangeNothing := by
  intro s n t o v ht
  exact ⟨onInst_at ht _, onInst_at ht _, onInst_at ht _, onInst_at ht _⟩

/-- Settles O8: the word is the free value at the counter (log 7). -/
theorem rdUnlistedCompletes : Obligations.RdUnlistedCompletes := by
  intro s n t o ht
  exact ⟨Config.unlistedValue s.freeCount, onInst_at ht _⟩

/-! ## Tables indexed by a SID or a slot -/

theorem getElem?_sid {α : Type} (v : Vector α 16) (p : Sid) : v[p.toNat]? = some (v.get p.toFin) :=
  Vector.getElem?_eq_getElem p.isLt

theorem getElem?_slot {α : Type} (v : Vector α 4) (i : BitVec 2) :
    v[i.toNat]? = some (v.get i.toFin) :=
  Vector.getElem?_eq_getElem i.isLt

/-! ## Remap bytes -/

theorem toNat_remapSid (w j : BitVec 2) : (remapSid w j).toNat = 4 * w.toNat + j.toNat := by
  rw [remapSid, BitVec.toNat_append, ← Nat.shiftLeft_add_eq_or_of_lt j.isLt, Nat.shiftLeft_eq,
    Nat.mul_comm]

theorem byteIndex_cases (j : BitVec 2) : j = 0 ∨ j = 1 ∨ j = 2 ∨ j = 3 := by
  revert j
  decide

/-- Byte `j` of a remap word is the whole remap byte of its logical SID: found first in its half of the word, then
in its half of that (30_encoding R76). -/
theorem extractLsb'_remapWord (remap : Vector Byte 16) (w j : BitVec 2) :
    (remapWord remap w).extractLsb' (8 * j.toNat) 8 = remap.get (remapSid w j).toFin := by
  unfold remapWord
  obtain rfl | rfl | rfl | rfl := byteIndex_cases j
  · exact (BitVec.extractLsb'_append_eq_of_add_le (by decide)).trans BitVec.extractLsb'_append_eq_right
  · exact (BitVec.extractLsb'_append_eq_of_add_le (by decide)).trans BitVec.extractLsb'_append_eq_left
  · exact (BitVec.extractLsb'_append_eq_of_le (by decide)).trans BitVec.extractLsb'_append_eq_right
  · exact (BitVec.extractLsb'_append_eq_of_le (by decide)).trans BitVec.extractLsb'_append_eq_left

/-- A write of a remap word stores byte `j` of its operand under logical SID `4w + j`. -/
theorem getElem?_setRemapWord_named (remap : Vector Byte 16) (w j : BitVec 2) (v : Word) :
    (setRemapWord remap w v)[4 * w.toNat + j.toNat]? = some (v.extractLsb' (8 * j.toNat) 8) := by
  obtain rfl | rfl | rfl | rfl := byteIndex_cases j
  all_goals simp [setRemapWord, toNat_remapSid]

/-- A write of a remap word leaves the bytes of the other words. -/
theorem getElem?_setRemapWord_other (remap : Vector Byte 16) {w : BitVec 2} (v : Word) {a : Nat}
    (h : a / 4 ≠ w.toNat) : (setRemapWord remap w v)[a]? = remap[a]? := by
  have apart (j : BitVec 2) : (remapSid w j).toNat ≠ a := by
    have index := toNat_remapSid w j
    omega
  simp only [setRemapWord, Vector.getElem?_set_ne _ (apart _)]

/-- Settles O9: the word read is the remap word, whose bytes are those of its four logical SIDs. -/
theorem rdSidRemapReturnsFourBytes : Obligations.RdSidRemapReturnsFourBytes := by
  intro s n t w ht
  refine ⟨remapWord t.remap w, busRead_at ht _, fun j => ?_⟩
  rw [extractLsb'_remapWord, ← toNat_remapSid, getElem?_sid]

/-- Settles O10: the write is a register write of the remap table, which changes the four named bytes. -/
theorem wrSidRemapWritesFourBytes : Obligations.WrSidRemapWritesFourBytes := by
  intro s n t w v ht
  exact ⟨setRemapWord t.remap w v, busWrite_at ht _, fun j => getElem?_setRemapWord_named _ w j v,
    fun a other => getElem?_setRemapWord_other _ v other⟩

/-- The remap byte is masked to the four bits of a SID. -/
theorem toNat_resolveSid (remap : Vector Byte 16) (sid : Sid) :
    (resolveSid remap sid).toNat = (remap.get sid.toFin).toNat % 16 := by
  rw [resolveSid, BitVec.toNat_setWidth, BitVec.toNat_and]
  exact (congrArg (· % 16) (Nat.and_two_pow_sub_one_eq_mod _ 4)).trans (Nat.mod_mod _ 16)

/-- Settles O13: the mask of the remap byte keeps its lower four bits, so the byte modulo 16. -/
theorem resolveMasksRemapByte : Obligations.ResolveMasksRemapByte := by
  intro s n t sid ht
  exact ⟨t.remap.get sid.toFin, resolveSid t.remap sid, getElem?_sid _ sid, toNat_resolveSid _ sid,
    onInst_at ht _⟩

/-! ## Words of a row, a slot or a register -/

/-- Settles O11: each of the five is a register read, of a word as it is stored or of the page shift in its field. -/
theorem registerReadsReturnStoredWord : Obligations.RegisterReadsReturnStoredWord := by
  intro s n t p i ht
  refine ⟨⟨t.tcr.get p.toFin, getElem?_sid _ p, busRead_at ht _⟩,
    ⟨t.ttbr.get p.toFin, ttbrAt t.ttbr p i, getElem?_sid _ p, getElem?_slot _ i, busRead_at ht _⟩,
    busRead_at ht _, busRead_at ht _, ?_⟩
  rw [exec, execRdParams, busRead_at ht]
  cases s.params.pageSize <;> rfl

/-- Settles O12: each of the three is a register write, of one word of its table. -/
theorem configurationWritesStoreWord : Obligations.ConfigurationWritesStoreWord := by
  intro s n t p i v ht
  refine ⟨⟨t.tcr.set p.toNat v p.isLt, busWrite_at ht _, Vector.getElem?_set_self p.isLt,
      fun q other => Vector.getElem?_set_ne _ other.symm⟩,
    ⟨setTtbr t.ttbr p i v, t.ttbr.get p.toFin, (t.ttbr.get p.toFin).set i.toNat v i.isLt,
      busWrite_at ht _, getElem?_sid _ p, Vector.getElem?_set_self p.isLt,
      Vector.getElem?_set_self i.isLt, fun j other => Vector.getElem?_set_ne _ other.symm,
      fun q other => Vector.getElem?_set_ne _ other.symm⟩,
    busWrite_at ht _⟩

end Sys2Proof.Machine
end

section
/-! A request against two instances that are alike for its physical SID: the policy check, the lookup and the walk
see one row and one SID's entries, and a latch and an insert keep the two alike (42_stream_config R118, R135). -/

namespace Sys2Proof.Machine

/-- Two instances with one fault record and the same entries of physical SID `p`. -/
structure AlikeFor (p : Sid) (t u : Translating) : Prop where
  entries     : ∀ page, tlbFind t.tlb p page = tlbFind u.tlb p page
  faultStatus : t.faultStatus = u.faultStatus
  faultAddr   : t.faultAddr = u.faultAddr
  faultSid    : t.faultSid = u.faultSid

section Alike

variable {t u : Translating} {p : Sid} {r : Request}

theorem AlikeFor.latchFault (alike : AlikeFor p t u) (bits : Word) (addr : Quad) (psid : Sid) :
    AlikeFor p (latchFault t bits addr psid) (latchFault u bits addr psid) where
  entries     := alike.entries
  faultStatus := congrArg (· ||| bits) alike.faultStatus
  faultAddr   := rfl
  faultSid    := rfl

theorem AlikeFor.insert (alike : AlikeFor p t u) (page : Quad) (e : TlbEntry) :
    AlikeFor p { t with tlb := tlbSet t.tlb p page e } { u with tlb := tlbSet u.tlb p page e } where
  __ := alike
  entries page' := by
    by_cases same : page' = page
    · subst same
      rw [tlbFind_tlbSet_same, tlbFind_tlbSet_same]
    · rw [tlbFind_tlbSet_other _ _ fun key => same key.2, tlbFind_tlbSet_other _ _ fun key => same key.2,
        alike.entries]

theorem AlikeFor.annotate (alike : AlikeFor p t u) (z : PageSize) (e : TlbEntry) (r : Request) :
    AlikeFor p (annotate z t e r).1 (annotate z u e r).1 := by
  unfold Machine.annotate
  split
  · exact alike
  · exact alike.latchFault _ _ _

/-- The bypass check looks at the policy word of the physical SID alone. -/
theorem bypassApplies_of_row (row : t.tcr[p.toNat]? = u.tcr[p.toNat]?) (P : Params) :
    bypassApplies P t p = bypassApplies P u p := by
  rw [getElem?_sid, getElem?_sid, Option.some.injEq] at row
  simp only [bypassApplies, row]

theorem ttbrAt_of_row {ttbr ttbr' : Vector (Vector Word 4) 16} (row : ttbr[p.toNat]? = ttbr'[p.toNat]?)
    (i : BitVec 2) : ttbrAt ttbr p i = ttbrAt ttbr' p i := by
  rw [getElem?_sid, getElem?_sid, Option.some.injEq] at row
  simp only [ttbrAt, row]

/-- A request is answered alike, and leaves the instances alike, through each of its four ends: bypassed, a hit, a
fault of its walk, an insert. -/
theorem AlikeFor.xlateAlone (alike : AlikeFor r.psid t u)
    (tcr : t.tcr[r.psid.toNat]? = u.tcr[r.psid.toNat]?)
    (ttbr : t.ttbr[r.psid.toNat]? = u.ttbr[r.psid.toNat]?)
    (P : Params) (read : Quad → Option Bytes8) :
    (xlateAlone P read t r).2 = (xlateAlone P read u r).2 ∧
      AlikeFor r.psid (xlateAlone P read t r).1 (xlateAlone P read u r).1 := by
  simp only [Machine.xlateAlone, bypassApplies_of_row tcr, alike.entries, ttbrAt_of_row ttbr]
  split
  · exact ⟨rfl, alike⟩
  · split
    · exact ⟨rfl, alike.annotate _ _ r⟩
    · split
      · exact ⟨rfl, alike.latchFault _ _ _⟩
      · exact ⟨rfl, (alike.insert _ _).annotate _ _ r⟩

end Alike

/-- Settles O49: the hypotheses say that the two instances are alike for the physical SID and hold one row. -/
theorem xlateUsesOnlyItsPhysicalRow : Obligations.XlateUsesOnlyItsPhysicalRow := by
  intro P read t u r tcr ttbr entries status addr sid
  have alike : AlikeFor r.psid t u := ⟨entries, status, addr, sid⟩
  obtain ⟨answer, after⟩ := alike.xlateAlone tcr ttbr P read
  exact ⟨answer, after.faultStatus, after.faultAddr, after.faultSid, after.entries⟩

end Sys2Proof.Machine
end

section
/-! An `XLATE` event as the spec writes it (43_translation_engine R136 to R146): the physical SID, the policy word
and the slot of a request, and how the step that receives it ends. -/

namespace Sys2Proof.Machine

/-! ## Refused requests -/

/-- Settles O43: neither the port check nor the lookup of a target set comes to a state. -/
theorem absentPortOrSetRefused : Obligations.AbsentPortOrSetRefused := by
  intro s n k t v q r w iova ht
  refine ⟨fun absent => ?_, fun absent => ?_⟩
  · have refused : sidPresent s.params q = false := absent
    rw [exec, execXlate, onInst_at ht, if_neg (by rw [refused]; decide)]
  · have read (half : Quad → Word) : readTargetSet n k s half = .refused (.noTargetSet k) := by
      simp only [readTargetSet, onInst_at ht, absent]
    have write (f : Quad → Quad) : writeTargetSet n k s f = .refused (.noTargetSet k) := by
      simp only [writeTargetSet, onInst_at ht, absent]
    exact ⟨read _, read _, write _, write _⟩

/-! ## The words of a request -/

section Words

variable {P : Params} {t : Translating} {q p : Sid} {b : Byte} {c : Word}

/-- Masking a remap byte to four bits is cutting it to four bits. -/
theorem resolveSid_of_byte (hb : t.remap[q.toNat]? = some b) :
    resolveSid t.remap q = b.setWidth 4 := by
  rw [getElem?_sid, Option.some.injEq] at hb
  refine BitVec.eq_of_toNat_eq ?_
  rw [toNat_resolveSid, hb, BitVec.toNat_setWidth]

/-- The request of an event, its physical SID read off the remap byte (43 R138). -/
theorem requestOf_of_byte (hb : t.remap[q.toNat]? = some b) (hp : p = b.setWidth 4) (n : Nat)
    (r w : Bool) (iova : Quad) : requestOf n q r w iova t = ⟨n, q, iova, r, w, p⟩ := by
  rw [requestOf, resolveSid_of_byte hb, hp]

/-- The causes of bypass, on the policy word of the physical SID (43 R139). -/
theorem bypassApplies_iff (hc : t.tcr[p.toNat]? = some c) : bypassApplies P t p = true ↔
    P.bypassMask.getLsbD p.toNat = true ∨ c.getLsbD 7 = false ∨ c.getLsbD 8 = true := by
  rw [getElem?_sid, Option.some.injEq] at hc
  simp only [bypassApplies, tcrEnabled, tcrBypass, hc, Bool.or_eq_true, Bool.not_eq_true', or_assoc]

/-- A stream that no cause of bypass names is translated. -/
theorem bypassApplies_eq_false (hc : t.tcr[p.toNat]? = some c)
    (mask : P.bypassMask.getLsbD p.toNat = false) (enable : c.getLsbD 7 = true)
    (bypass : c.getLsbD 8 = false) : bypassApplies P t p = false := by
  rw [← Bool.not_eq_true, bypassApplies_iff hc, mask, enable, bypass]
  decide

/-- The protection bits in terms of the permission's two bits (43 R145). -/
theorem protBits_eq (perm : Perm) (wantR wantW : Bool) : protBits perm wantR wantW =
    (if wantW = true ∧ perm.getLsbD 1 = false then 0x08 else 0) |||
      (if wantR = true ∧ perm.getLsbD 0 = false then 0x10 else 0) := by
  simp only [protBits, permWritable, permReadable, Bool.and_eq_true, Bool.not_eq_true',
    FaultKind.bit]

/-- The slot of an IOVA, counted in the regions one TTBR slot maps (30_encoding R87, R88). -/
theorem toNat_slotOf_pageOf (z : PageSize) (iova : Quad) :
    (slotOf z (pageOf z iova)).toNat = iova.toNat / 2 ^ (pageShift z + slotShift z) % 4 := by
  rw [toNat_slotOf, pageOf, BitVec.toNat_ushiftRight, Nat.shiftRight_eq_div_pow, Nat.div_div_eq_div_mul,
    ← Nat.pow_add]

/-- The word of the slot that an IOVA selects, read off the row of the physical SID. -/
theorem ttbrAt_of_row_word {z : PageSize} {iova : Quad} {row : Vector Word 4} {word : Word}
    (hrow : t.ttbr[p.toNat]? = some row)
    (hword : row[iova.toNat / 2 ^ (pageShift z + slotShift z) % 4]? = some word) :
    ttbrAt t.ttbr p (slotOf z (pageOf z iova)) = word := by
  rw [getElem?_sid, Option.some.injEq] at hrow
  rw [← toNat_slotOf_pageOf, getElem?_slot, Option.some.injEq] at hword
  rw [ttbrAt, hrow, hword]

end Words

/-! ## A miss in section S1 -/

section Miss

variable {P : Params} {t : Translating} {r : Request} {word : Word}
  (enabled : bypassApplies P t r.psid = false)
  (absent : tlbFind t.tlb r.psid (pageOf P.pageSize r.iova) = none)
  (slot : ttbrAt t.ttbr r.psid (slotOf P.pageSize (pageOf P.pageSize r.iova)) = word)
include enabled absent slot

/-- A miss on an invalid slot ends in S1 with the fault latched (43 R142, R144). -/
theorem xlateS1_miss_invalid (invalid : ttbrValid word = false) :
    xlateS1 P t r = .finished (latchFault t FaultKind.ttbrInvalid.bit r.iova r.psid)
      (noAccess P.pageSize) := by
  simp only [xlateS1, enabled, absent, slot, walkStart_invalid invalid, reportWalkFault,
    WalkFault.kind, Bool.false_eq_true, if_false]

/-- A miss on a valid slot goes on to level 1, with the slot's word as its snapshot (43 R142). -/
theorem xlateS1_miss_valid (valid : ttbrValid word = true) :
    xlateS1 P t r = .walking word .one (ttbrBase word) := by
  simp only [xlateS1, enabled, absent, slot, walkStart_valid valid, Bool.false_eq_true, if_false]

end Miss

/-! ## The step that receives an `XLATE` -/

section Received

variable {s : State} {n : Nat} {t : Translating} {q : Sid} {r w : Bool} {iova : Quad} {req : Request}

/-- A request that ends in S1 writes its instance and is answered in that step. -/
theorem exec_xlate_of_finished {t' : Translating} {res : XlateResult}
    (ht : s.insts[n]? = some (.translating t)) (port : s.params.sidPresent.getLsbD q.toNat = true)
    (made : requestOf n q r w iova t = req) (finished : xlateS1 s.params t req = .finished t' res) :
    exec (.xlate n q r w iova) s = .next { s with
      nextTicket := s.nextTicket + 1
      insts := s.insts.set n (.translating t')
      history := .xlate s.nextTicket res :: s.history } := by
  subst made
  exact exec_xlate_finished ht port finished

/-- A request that does not end in S1 goes on as a flight (20_memory R59). -/
theorem exec_xlate_of_walking {word : Word} {level : Level} {base : Quad}
    (ht : s.insts[n]? = some (.translating t)) (port : s.params.sidPresent.getLsbD q.toNat = true)
    (made : requestOf n q r w iova t = req)
    (walking : xlateS1 s.params t req = .walking word level base) :
    exec (.xlate n q r w iova) s = .next { s with
      nextTicket := s.nextTicket + 1
      flights := s.flights ++ [⟨s.nextTicket, .request req, pageOf s.params.pageSize iova, word,
        .reading level base⟩] } := by
  subst made
  have present : sidPresent s.params q = true := port
  simp only [exec, execXlate, onInst_at ht, present, if_true, walking]

/-- An instance written with the state it has is as before. -/
theorem set_same_inst (ht : s.insts[n]? = some (.translating t)) :
    s.insts.set n (.translating t) = s.insts := by
  obtain ⟨lt, here⟩ := List.getElem?_eq_some_iff.1 ht
  rw [← here, List.set_getElem_self lt]

end Received

/-- Settles O40: any of the three causes makes the bypass check hold, and S1 then writes the instance as it is. -/
theorem bypassedXlateGrantsNothing : Obligations.BypassedXlateGrantsNothing := by
  intro s n t q p r w iova b c ht port hb hp hc cause
  have bypassed : bypassApplies s.params t p = true := (bypassApplies_iff hc).2 cause
  rw [exec_xlate_of_finished ht port (requestOf_of_byte hb hp n r w iova) (xlateS1_bypassed bypassed),
    set_same_inst ht]
  rfl

/-- Settles O41: S1 ends in the entry's annotation, which latches the protection bits or, where there are none,
writes the instance as it is. -/
theorem xlateHitAnnotates : Obligations.XlateHitAnnotates := by
  intro s n t q p r w iova b c e bits ht port hb hp hc mask enable bypass cached hbits
  have enabled := bypassApplies_eq_false hc mask enable bypass
  rw [← protBits_eq] at hbits
  rw [exec_xlate_of_finished ht port (requestOf_of_byte hb hp n r w iova) (xlateS1_hit enabled cached),
    annotate, ← hbits]
  split
  · rw [set_same_inst ht]
  · rfl

/-- Settles O42: the word of the IOVA's slot decides how S1 ends. -/
theorem xlateMissStartsWalk : Obligations.XlateMissStartsWalk := by
  intro s n t q p r w iova b c row word ht port hb hp hc mask enable bypass absent hrow hword
  have made := requestOf_of_byte hb hp n r w iova
  have enabled := bypassApplies_eq_false hc mask enable bypass
  have slot : ttbrAt t.ttbr p (slotOf s.params.pageSize (pageOf s.params.pageSize iova)) = word := by
    refine ttbrAt_of_row_word hrow ?_
    cases z : s.params.pageSize <;> rw [z] at hword <;> exact hword
  refine ⟨fun invalid => ?_, fun valid => ?_⟩
  · exact exec_xlate_of_finished ht port made (xlateS1_miss_invalid enabled absent slot invalid)
  · rw [exec_xlate_of_walking ht port made (xlateS1_miss_valid enabled absent slot valid),
      ttbrBase_eq_ofNat]
    rfl

end Sys2Proof.Machine
end

section
/-! Section S2 of a request, and a request as one function: how the closing turn ends, and that alone the steps of an
`XLATE` are its pseudocode (43_translation_engine R143 to R146). -/

namespace Sys2Proof.Machine

/-! ## Section S2 -/

/-- PermissionAnnotate in one form: the bits are or-ed in, and the rest of the record is new only with a bit. -/
theorem annotate_eq (z : PageSize) (t : Translating) (e : TlbEntry) (r : Request) {bits : Word}
    (h : protBits e.perm r.wantR r.wantW = bits) : annotate z t e r =
    ({ t with
        faultStatus := t.faultStatus ||| bits
        faultAddr := if bits = 0 then t.faultAddr else r.iova
        faultSid := if bits = 0 then t.faultSid else r.psid },
      ⟨some e.blockAddr, e.perm, pageMask z⟩) := by
  rw [annotate, h]
  by_cases clean : bits = 0
  · have same : t.faultStatus ||| 0 = t.faultStatus := BitVec.or_zero
    simp only [clean, if_true, same]
  · simp only [clean, if_false, latchFault]

/-- A walk that found a block: the entry used is the one cached meanwhile or the walk's own, it is cached after, and
no other key is touched (43 R143, R144). -/
theorem xlateS2_ok (z : PageSize) (t : Translating) (r : Request) (new : TlbEntry) :
    ∃ (used : TlbEntry) (c : Tlb),
      (tlbFind t.tlb r.psid (pageOf z r.iova)).getD new = used ∧
      tlbFind c r.psid (pageOf z r.iova) = some used ∧
      (∀ q page, (q, page) ≠ (r.psid, pageOf z r.iova) → tlbFind c q page = tlbFind t.tlb q page) ∧
      xlateS2 z t r (.ok new) = annotate z { t with tlb := c } used r := by
  cases meanwhile : tlbFind t.tlb r.psid (pageOf z r.iova) with
  | some e => exact ⟨e, t.tlb, rfl, meanwhile, fun _ _ _ => rfl, by simp only [xlateS2, meanwhile]⟩
  | none =>
    refine ⟨new, tlbSet t.tlb r.psid (pageOf z r.iova) new, rfl, tlbFind_tlbSet_same _ _ _ _,
      fun q page other => tlbFind_tlbSet_other _ _ fun same => ?_, by simp only [xlateS2, meanwhile]⟩
    exact other (Prod.ext same.1 same.2)

/-- A closing turn of a request is section S2 on its instance. -/
theorem flightStep_request {s : State} {f : Flight} {r : Request} {w : WalkResult} {t : Translating}
    (purpose : f.purpose = .request r) (done : f.phase = .done w)
    (ht : s.insts[r.inst]? = some (.translating t)) : flightStep f s = .next
      (((s.dropFlight f.ticket).setInst r.inst (xlateS2 s.params.pageSize t r w).1).emit
        (.xlate f.ticket (xlateS2 s.params.pageSize t r w).2)) := by
  simp only [flightStep, done, finishFlight, purpose]
  exact onInst_at (s := s.dropFlight f.ticket) ht _

/-- Settles O44: the closing turn is S2, which reads the cache and no configuration. -/
theorem requestEndsInSectionTwo : Obligations.RequestEndsInSectionTwo := by
  intro s f r w t turn hf tickets purpose done ht page
  have page : f.page = pageOf s.params.pageSize r.iova := page
  refine ⟨(xlateS2 s.params.pageSize t r w).1, (xlateS2 s.params.pageSize t r w).2, ?_, ?_⟩
  · have dropped := dropFlight_flights_of_mem tickets hf
    rw [step_of_flight_turn turn tickets hf, flightStep_request (s := s.turnTaken) purpose done ht,
      ← dropped]
    rfl
  · cases w with
    | fault k => exact ⟨by cases k <;> rfl, rfl⟩
    | ok new =>
      obtain ⟨used, c, choice, cached, others, ends⟩ := xlateS2_ok s.params.pageSize t r new
      rw [ends, annotate_eq _ _ _ _ (protBits_eq _ _ _), page]
      refine ⟨used, _, ?_, rfl, rfl, cached, others, rfl⟩
      rw [← choice]
      cases tlbFind t.tlb r.psid (pageOf s.params.pageSize r.iova) <;> rfl

/-! ## The pseudocode -/

/-- With no other agent acting, the re-check of S2 misses as the lookup did (43 R143). -/
theorem xlateAlone_miss {P : Params} {read : Quad → Option Bytes8} {t : Translating} {r : Request}
    (enabled : bypassApplies P t r.psid = false)
    (absent : tlbFind t.tlb r.psid (pageOf P.pageSize r.iova) = none) :
    xlateAlone P read t r = xlateS2 P.pageSize t r (walkFrom P.pageSize read
      (ttbrAt t.ttbr r.psid (slotOf P.pageSize (pageOf P.pageSize r.iova)))
      (pageOf P.pageSize r.iova)) := by
  simp only [xlateAlone, xlateS2, enabled, absent, Bool.false_eq_true, if_false]

/-- The pseudocode, cut where S1 ends: a request that S1 finishes is answered, and one that walks goes on through
levels 1 and 2 to S2. -/
theorem xlateAlone_cases (P : Params) (read : Quad → Option Bytes8) (t : Translating) (r : Request) :
    (∃ t' res, xlateS1 P t r = .finished t' res ∧ xlateAlone P read t r = (t', res)) ∨
    (∃ word base, xlateS1 P t r = .walking word .one base ∧ xlateAlone P read t r
      = xlateS2 P.pageSize t r (walkLevels P.pageSize read base (pageOf P.pageSize r.iova))) := by
  cases enabled : bypassApplies P t r.psid with
  | true => exact .inl ⟨_, _, xlateS1_bypassed enabled, by simp only [xlateAlone, enabled, if_true]⟩
  | false =>
    cases absent : tlbFind t.tlb r.psid (pageOf P.pageSize r.iova) with
    | some e =>
      refine .inl ⟨_, _, xlateS1_hit enabled absent, ?_⟩
      simp only [xlateAlone, enabled, absent, Bool.false_eq_true, if_false]
    | none =>
      rw [xlateAlone_miss enabled absent]
      generalize slot : ttbrAt t.ttbr r.psid (slotOf P.pageSize (pageOf P.pageSize r.iova)) = word
      cases valid : ttbrValid word with
      | false =>
        refine .inl ⟨_, _, xlateS1_miss_invalid enabled absent slot valid, ?_⟩
        simp only [walkFrom, valid, Bool.false_eq_true, if_false]
        rfl
      | true =>
        refine .inr ⟨word, _, xlateS1_miss_valid enabled absent slot valid, ?_⟩
        simp only [walkFrom, valid, if_true]

/-- Settles O45: a request that S1 finishes has run, and one that walks runs alone as `WalkEnds` says, then S2. -/
theorem xlateRunsAsItsPseudocode : Obligations.XlateRunsAsItsPseudocode := by
  intro s n t q r w iova ht port turns flights
  obtain ⟨t', res, finished, alone⟩ | ⟨word, base, walking, alone⟩ := xlateAlone_cases s.params
    (readPhysical s.mem s.holes) t ⟨n, q, iova, r, w, resolveSid t.remap q⟩
  all_goals rw [alone]
  · exact ⟨_, 0, [], exec_xlate_of_finished ht port rfl finished, by decide, by decide, by simp, rfl⟩
  · let issued : State := { s with nextTicket := s.nextTicket + 1 }
    let f : Flight := ⟨s.nextTicket, .request ⟨n, q, iova, r, w, resolveSid t.remap q⟩,
      pageOf s.params.pageSize iova, word, .reading .one base⟩
    obtain ⟨k, le, ends⟩ := walkEnds_walkLevels s.params.pageSize (readPhysical s.mem s.holes) base
      (pageOf s.params.pageSize iova)
    obtain ⟨reads, rfl, source, runs⟩ := run_walkEnds (s := issued) turns f ends s.history
    refine ⟨_, reads.length + 1, reads, exec_xlate_of_walking ht port rfl walking,
      Nat.succ_le_succ le, le, source, ?_⟩
    rw [flights, List.nil_append]
    refine (runs 1).trans ?_
    rw [run_next 0 ((step_alone (s := issued) turns _ _).trans (flightStep_request rfl rfl ht))]
    simp [run, State.emit, State.setInst, State.dropFlight, f, issued]

end Sys2Proof.Machine
end

section
/-! What a translation may write: the cache and the fault record of the instance it is made to
(43_translation_engine R148). -/

namespace Sys2Proof.Machine

/-- The instance `t'` is `t` but for its cache and its fault record, where no bit was cleared. -/
structure Translated (t t' : Translating) : Prop where
  rest : t' = { t with
    tlb := t'.tlb, faultStatus := t'.faultStatus
    faultAddr := t'.faultAddr, faultSid := t'.faultSid }
  bits : t.faultStatus &&& ~~~ t'.faultStatus = 0

section Writes

variable {s s' : State} {n : Nat} {t u : Translating}

/-- A new cache is a translation's to write. -/
theorem Translated.cached (t : Translating) (c : Tlb) : Translated t { t with tlb := c } :=
  ⟨rfl, and_not_eq_zero_iff.2 fun _ bit => bit⟩

/-- So is a latch on top of it, which accumulates its bits (60_exceptions R174). -/
theorem Translated.latched (t : Translating) (c : Tlb) (bits : Word) (addr : Quad) (psid : Sid) :
    Translated t (latchFault { t with tlb := c } bits addr psid) := by
  refine ⟨rfl, and_not_eq_zero_iff.2 fun i bit => ?_⟩
  rw [latchFault_faultStatus, BitVec.getLsbD_or, bit, Bool.true_or]

theorem Translated.xlateS1 {P : Params} {t' : Translating} {r : Request} {res : XlateResult}
    (h : xlateS1 P t r = .finished t' res) : Translated t t' := by
  obtain rfl | ⟨b, rfl, -⟩ := xlateS1_finished h
  · exact .cached t' t'.tlb
  · exact .latched t t.tlb _ _ _

theorem Translated.xlateS2 (z : PageSize) (t : Translating) (r : Request) (w : WalkResult) :
    Translated t (xlateS2 z t r w).1 := by
  obtain ⟨c, -, h | ⟨b, h, -⟩⟩ := xlateS2_cases z t r w
  all_goals rw [h]
  · exact .cached t c
  · exact .latched t c _ _ _

/-- The instances are as before, but for one that was translated on. -/
def OnlyTranslates (s s' : State) : Prop :=
  s'.insts = s.insts ∨ ∃ n t u, s.insts[n]? = some (.translating t) ∧
    s'.insts = (s.setInst n u).insts ∧ Translated t u

theorem OnlyTranslates.translated (h : OnlyTranslates s s')
    (ht : s.insts[n]? = some (.translating t)) (hu : s'.insts[n]? = some (.translating u)) :
    Translated t u := by
  obtain same | ⟨m, v, v', hv, written, translated⟩ := h
  · rw [same, ht] at hu
    cases hu
    exact .cached t t.tlb
  · rw [written] at hu
    by_cases own : n = m
    · subst own
      cases ht.symm.trans hv
      cases hu.symm.trans (setInst_at hv v')
      exact translated
    · rw [setInst_other own, ht] at hu
      cases hu
      exact .cached t t.tlb

/-- The step that receives an `XLATE` writes its instance with the end of S1, or writes none. -/
theorem execXlate_onlyTranslates {sid : Sid} {wantR wantW : Bool} {iova : Quad}
    (h : execXlate n sid wantR wantW iova s = .next s') : OnlyTranslates s s' := by
  obtain ⟨t, ht, e⟩ := onInst_next h
  split at e
  · dsimp only at e
    split at e <;> cases e
    · rename_i t' res finished
      exact .inr ⟨n, t, t', ht, rfl, .xlateS1 finished⟩
    · exact .inl rfl
  · cases e

/-- A turn of a request writes its instance with the end of S2, or writes none. -/
theorem requestStep_onlyTranslates {ticket : Nat} (h : requestStep ticket s = .next s') :
    OnlyTranslates s s' := by
  obtain ⟨f, -, -, hs⟩ := requestStep_next h
  obtain ⟨level, base, -, rfl⟩ | ⟨w, -, -, rfl⟩ | ⟨w, r, t, -, -, ht, rfl⟩ := flightStep_next hs
  · exact .inl rfl
  · exact .inl rfl
  · exact .inr ⟨r.inst, t, _, ht, rfl, .xlateS2 _ t r w⟩

end Writes

/-- Settles O50: both kinds of step keep the engine's frame and every entry, and write an instance only as a
translation may. -/
theorem translationWritesOnlyCacheAndFaults : Obligations.TranslationWritesOnlyCacheAndFaults := by
  intro s s' n t t' h ht ht'
  have kept : (∃ target, EngineFrame target s s') ∧ EntriesKept s s' ∧ OnlyTranslates s s' := by
    obtain ⟨m, q, r, w, iova, h⟩ | ⟨k, h⟩ := h
    · exact ⟨⟨_, exec_frame h⟩, execXlate_entriesKept h, execXlate_onlyTranslates h⟩
    · exact ⟨requestStep_frame h, requestStep_entriesKept h, requestStep_onlyTranslates h⟩
  obtain ⟨⟨target, frame⟩, entries, writes⟩ := kept
  obtain ⟨rest, bits⟩ := writes.translated ht ht'
  exact ⟨rest, entries n t t' ht ht', bits, frame.mem, frame.holes, frame.params, frame.inputs⟩

end Sys2Proof.Machine
end

section
/-! The InvalidateController's operations (44_invalidate_controller): the mask a write selects, the halves of a target
set, and one rule for each step of the deferred task (R162). -/

namespace Sys2Proof.Machine

/-! ## The operation word -/

theorem getLsbD_selectedFrom (v : Word) (sets : List Quad) (k b : Nat) :
    (selectedFrom v k sets).getLsbD b = true ↔
      ∃ j x, sets[j]? = some x ∧ v.getLsbD (8 + (k + j)) = true ∧ x.getLsbD b = true := by
  induction sets generalizing k with
  | nil => simp [selectedFrom]
  | cons y sets ih =>
    have head : (if v.getLsbD (8 + k) then y else 0).getLsbD b = true ↔
        v.getLsbD (8 + k) = true ∧ y.getLsbD b = true := by
      cases v.getLsbD (8 + k) <;> simp
    have shift (j : Nat) : k + 1 + j = k + (j + 1) := by omega
    simp only [selectedFrom, BitVec.getLsbD_or, Bool.or_eq_true, head, ih, shift]
    constructor
    · rintro (named | ⟨j, x, at_j, named⟩)
      · exact ⟨0, y, rfl, named⟩
      · exact ⟨j + 1, x, at_j, named⟩
    · rintro ⟨_ | j, x, at_j, named⟩
      · cases at_j
        exact .inl named
      · exact .inr ⟨j, x, at_j, named⟩

/-- A bit of the selected mask is a bit of a selected target set (44 R155). -/
theorem getLsbD_selectedMask (v : Word) (sets : List Quad) (b : Nat) :
    (selectedMask v sets).getLsbD b = true ↔
      ∃ k x, sets[k]? = some x ∧ v.getLsbD (8 + k) = true ∧ x.getLsbD b = true := by
  simpa only [selectedMask, Nat.zero_add] using getLsbD_selectedFrom v sets 0 b

theorem selectedMask_eq_zero {v : Word} {sets : List Quad}
    (h : ∀ (k : Nat) (x : Quad), sets[k]? = some x → v.getLsbD (8 + k) = true → x = 0) :
    selectedMask v sets = 0 := by
  refine BitVec.eq_of_getLsbD_eq fun b _ => (Bool.eq_false_iff.2 ?_).trans BitVec.getLsbD_zero.symm
  rw [Ne, getLsbD_selectedMask]
  rintro ⟨k, x, at_k, selected, bit⟩
  simp [h k x at_k selected] at bit

/-- Settles O15: the mask is the one the write selects, and of the two things a write can do it is the acceptance. -/
theorem wrTlbOpAcceptsInvalidate : Obligations.WrTlbOpAcceptsInvalidate := by
  intro s n t v mask ht idle opcode nonzero bits
  have selected : mask = selectedMask v t.targetSets :=
    BitVec.eq_of_getLsbD_eq fun b lt =>
      Bool.eq_iff_iff.2 ((bits b lt).trans (getLsbD_selectedMask v t.targetSets b).symm)
  subst selected
  refine (busWrite_at ht _).trans ?_
  obtain ⟨-, busy | other | empty⟩ | ⟨-, -, -, accepted⟩ := writeTlbOp_cases s.params.nSets t v
  · cases busy.symm.trans idle
  · exact absurd opcode other
  · exact absurd empty nonzero
  · rw [accepted]
    rfl

/-- To write an instance as it is changes nothing. -/
theorem setInst_same {s : State} {n : Nat} {t : Translating}
    (ht : s.insts[n]? = some (.translating t)) : s.setInst n t = s := by
  obtain ⟨lt, at_n⟩ := List.getElem?_eq_some_iff.1 ht
  rw [State.setInst, ← at_n, List.set_getElem_self]

/-- Settles O16: each of the three cases excludes the acceptance. -/
theorem wrTlbOpOtherwiseIgnored : Obligations.WrTlbOpOtherwiseIgnored := by
  intro s n t v ht ignored
  have same : writeTlbOp s.params.nSets t v = t := by
    obtain ⟨same, -⟩ | ⟨idle, opcode, nonzero, -⟩ := writeTlbOp_cases s.params.nSets t v
    · exact same
    · obtain busy | other | empty := ignored
      · cases busy.symm.trans idle
      · exact absurd opcode other
      · exact absurd (selectedMask_eq_zero empty) nonzero
  refine (busWrite_at ht _).trans ?_
  rw [same, setInst_same ht]

/-! ## The target sets -/

section TargetSets

variable {s : State} {n k : Nat} {t : Translating} {x : Quad}

theorem readTargetSet_at (ht : s.insts[n]? = some (.translating t)) (hx : t.targetSets[k]? = some x)
    (half : Quad → Word) : readTargetSet n k s half = .next (s.emit (.readValue n (half x))) := by
  rw [readTargetSet, onInst_at ht, hx]

theorem writeTargetSet_at (ht : s.insts[n]? = some (.translating t)) (hx : t.targetSets[k]? = some x)
    (f : Quad → Quad) : writeTargetSet n k s f
      = .next (s.setInst n { t with targetSets := t.targetSets.set k (f x) }) := by
  rw [writeTargetSet, onInst_at ht, hx]

end TargetSets

/-- Settles O14: a read answers a half of the set, and a write joins its operand to the other half. -/
theorem targetSetHalvesReadAndWrite : Obligations.TargetSetHalvesReadAndWrite := by
  intro s n k t x v ht hx
  exact ⟨readTargetSet_at ht hx _, readTargetSet_at ht hx _,
    ⟨quadOf v (hiWord x), loWord_quadOf _ _, hiWord_quadOf _ _, writeTargetSet_at ht hx _⟩,
    ⟨quadOf (loWord x) v, loWord_quadOf _ _, hiWord_quadOf _ _, writeTargetSet_at ht hx _⟩⟩

/-! ## The notification list -/

theorem mem_notifyList {P : Params} {mask : Quad} {q : Sid} :
    q ∈ notifyList P mask ↔
      mask.getLsbD q.toNat = true ∧ P.sidPresent.getLsbD q.toNat = true := by
  have every : q ∈ (List.range 16).map (BitVec.ofNat 4) :=
    List.mem_map.2 ⟨q.toNat, List.mem_range.2 q.isLt, by simp⟩
  rw [notifyList, List.mem_filter, Bool.and_eq_true, and_iff_right every, sidPresent]

theorem notifyList_ascending (P : Params) (mask : Quad) :
    (notifyList P mask).Pairwise fun a b => a.toNat < b.toNat := by
  have all : ((List.range 16).map (BitVec.ofNat 4)).Pairwise fun a b => a.toNat < b.toNat := by
    decide
  exact all.sublist List.filter_sublist

/-- Settles O33: every SID is below 16, where the mask has no bit. -/
theorem highMaskBitsNameNothing : Obligations.HighMaskBitsNameNothing := by
  intro P c mask low
  have unnamed (q : Sid) : mask.getLsbD q.toNat = false := by
    have bit := congrArg (BitVec.getLsbD · q.toNat) low
    simpa [q.isLt] using bit
  refine ⟨List.filter_eq_self.2 fun x _ => by simp [unnamed], ?_⟩
  exact List.eq_nil_iff_forall_not_mem.2 fun q owed => by
    simp [mem_notifyList, unnamed] at owed

/-! ## The deferred task, step by step -/

section TaskSteps

variable {s : State} {n : Nat} {t : Translating} {mask : Quad}

theorem loopBusyElsewhere_eq_false_iff : loopBusyElsewhere n s = false ↔ OthersIdle n s := by
  refine ⟨othersIdle_of_loop_free, fun idle => List.any_eq_false.2 fun i hi => ?_⟩
  obtain ⟨m, hm⟩ := List.mem_iff_getElem?.1 hi
  by_cases own : m = n
  · subst own
    obtain rfl : i = .unknown := by
      have lt := (List.getElem?_eq_some_iff.1 hm).1
      rw [List.getElem?_set_self (by simpa using lt)] at hm
      exact (Option.some.inj hm).symm
    decide
  · rw [List.getElem?_set_ne (Ne.symm own)] at hm
    simp [idle m i own hm]

theorem taskStep_notQueued (ht : s.insts[n]? = some (.translating t))
    (none_owed : t.pendingInval = none) : taskStep n s = .refused (.taskNotQueued n) := by
  rw [taskStep, onInst_at ht, none_owed]

theorem taskStep_loopBusy (ht : s.insts[n]? = some (.translating t))
    (pending : t.pendingInval = some mask) (queued : t.task = none) (others : ¬OthersIdle n s) :
    taskStep n s = .refused (.eventLoopBusy n) := by
  have busy : loopBusyElsewhere n s = true := by
    rwa [← loopBusyElsewhere_eq_false_iff, Bool.not_eq_false] at others
  rw [taskStep, onInst_at ht, pending, queued]
  exact if_pos busy

/-- T1 (44 R162). -/
theorem taskStep_evict (ht : s.insts[n]? = some (.translating t))
    (pending : t.pendingInval = some mask) (queued : t.task = none) (others : OthersIdle n s) :
    taskStep n s = .next (s.setInst n (taskEvict s.params t mask)) := by
  rw [taskStep, onInst_at ht, pending, queued]
  exact if_neg (by simp [loopBusyElsewhere_eq_false_iff.2 others])

/-- T2 (44 R162). -/
theorem taskStep_notify {k : Quad} {q : Sid} {rest : List Sid}
    (ht : s.insts[n]? = some (.translating t)) (pending : t.pendingInval = some mask)
    (owed : t.task = some ⟨k, q :: rest⟩) :
    taskStep n s = .next ((s.setInst n { t with task := some ⟨k, rest⟩ }).emit
      (.notifyUnmap n q 0 (spaceLength s.params.pageSize))) := by
  rw [taskStep, onInst_at ht, pending, owed]

/-- T3 (44 R162). -/
theorem taskStep_complete {k : Quad} (ht : s.insts[n]? = some (.translating t))
    (pending : t.pendingInval = some mask) (owed : t.task = some ⟨k, []⟩) :
    taskStep n s = .next (s.setInst n (taskComplete t)) := by
  rw [taskStep, onInst_at ht, pending, owed]

end TaskSteps

theorem spaceLength_eq (z : PageSize) :
    spaceLength z = match z with | .k4 => 2 ^ 32 | .k16 => 2 ^ 38 := by
  cases z <;> rfl

theorem completedOp_eq (w : Word) : completedOp w = w &&& 0xFF0FFFFB := by
  rw [completedOp, BitVec.and_assoc]
  rfl

/-- T3 in the words of the register map: `BUSY` and `OPCODE` go, the selector stays (44 R163). -/
theorem taskComplete_eq (t : Translating) : taskComplete t =
    { t with tlbOp := t.tlbOp &&& 0xFF0FFFFB, pendingInval := none, task := none } := by
  rw [taskComplete, completedOp_eq]

/-- Settles O17: the event is T1, which filters the cache and owes the notification list. -/
theorem invRunEvictsFirst : Obligations.InvRunEvictsFirst := by
  intro s n t mask ht pending queued others
  exact ⟨tlbEvict t.tlb mask, notifyList s.params mask, taskStep_evict ht pending queued others,
    fun _ => mem_tlbEvict, List.filter_sublist, fun _ => mem_notifyList, notifyList_ascending _ _⟩

/-- Settles O18: with a SID owed the event is its notification, with none it is T3. -/
theorem invRunNotifiesThenCompletes : Obligations.InvRunNotifiesThenCompletes := by
  intro s n t mask mask' ht pending
  refine ⟨fun q rest owed => (taskStep_notify ht pending owed).trans ?_,
    fun done => (taskStep_complete ht pending done).trans ?_⟩
  · rw [spaceLength_eq]
    rfl
  · rw [taskComplete_eq]
    rfl

/-- Settles O19: a task must be queued, and to start it no other may be between its steps. -/
theorem invRunRefusedWhenNotEnabled : Obligations.InvRunRefusedWhenNotEnabled := by
  intro s n t ht
  refine ⟨taskStep_notQueued ht, fun owes queued ⟨m, i, other, hi, running⟩ => ?_⟩
  obtain ⟨mask, pending⟩ := Option.ne_none_iff_exists'.1 owes
  refine taskStep_loopBusy ht pending queued fun idle => ?_
  cases running.symm.trans (idle m i other hi)

/-! ## The whole task, with no other agent acting -/

section Alone

variable {s : State} {n : Nat} {t : Translating} {mask : Quad} {k : Task}

/-- With no turn imposed and no request in flight, the one running task moves (70 R213). -/
theorem nextTurn_running (turns : s.turns = []) (flights : s.flights = [])
    (ht : s.insts[n]? = some (.translating t)) (running : t.task = some k)
    (others : OthersIdle n s) : nextTurn s = .task n := by
  obtain ⟨lt, at_n⟩ := List.getElem?_eq_some_iff.1 ht
  have found : s.insts.findIdx? Inst.running = some n := by
    refine List.findIdx?_eq_some_iff_getElem.2 ⟨lt, ?_, fun m before => ?_⟩
    · rw [at_n, Inst.running, running, Option.isSome_some]
    · rw [others m _ (Nat.ne_of_lt before) (List.getElem?_eq_getElem _)]
      exact Bool.false_ne_true
  simp only [nextTurn, turns, defaultTurn, flights, found]

theorem step_running (turns : s.turns = []) (flights : s.flights = [])
    (ht : s.insts[n]? = some (.translating t)) (running : t.task = some k)
    (others : OthersIdle n s) : step s = taskStep n s := by
  have same : s.turnTaken = s := by rw [State.turnTaken, turns, List.tail_nil, ← turns]
  rw [step_of_task_turn (nextTurn_running turns flights ht running others), same]

theorem setInst_setInst (s : State) (n : Nat) (t u : Translating) :
    (s.setInst n t).setInst n u = s.setInst n u := by
  simp only [State.setInst, List.set_set]

theorem OthersIdle.setInst (others : OthersIdle n s) (u : Translating) :
    OthersIdle n (s.setInst n u) := fun m i other hi =>
  others m i other (setInst_other other u ▸ hi)

/-- Alone, a running task makes the notifications it owes, in order, and then T3. -/
theorem run_task (turns : s.turns = []) (flights : s.flights = [])
    (ht : s.insts[n]? = some (.translating t)) (pending : t.pendingInval = some mask)
    (others : OthersIdle n s) {owed : List Sid} (running : t.task = some ⟨mask, owed⟩) :
    run (owed.length + 1) s = .next { s.setInst n (taskComplete t) with
      history := (owed.map fun q =>
        Output.notifyUnmap n q 0 (spaceLength s.params.pageSize)).reverse ++ s.history } := by
  induction owed generalizing s t with
  | nil =>
    rw [List.length_nil, run_next 0 ((step_running turns flights ht running others).trans
      (taskStep_complete ht pending running))]
    rfl
  | cons q rest ih =>
    rw [List.length_cons, run_next _ ((step_running turns flights ht running others).trans
      (taskStep_notify ht pending running))]
    refine (ih (s := (s.setInst n { t with task := some ⟨mask, rest⟩ }).emit _) turns flights
      (setInst_at ht _) pending (others.setInst _) rfl).trans ?_
    simp [State.setInst, State.emit, taskComplete]

end Alone

/-- Settles O20: the event is T1, after which the task alone runs to its end. -/
theorem invalidationRunsToCompletion : Obligations.InvalidationRunsToCompletion := by
  intro s n t mask ht pending queued idle turns flights
  have others : OthersIdle n s := fun m i _ => idle m i
  refine ⟨_, notifyList s.params mask, taskStep_evict ht pending queued others,
    fun _ => mem_notifyList, notifyList_ascending _ _, ?_⟩
  refine (run_task (s := s.setInst n (taskEvict s.params t mask)) turns flights (setInst_at ht _)
    pending (others.setInst _) rfl).trans ?_
  rw [setInst_setInst, taskComplete_eq, spaceLength_eq, queued]
  rfl

end Sys2Proof.Machine
end

section
/-! Busy (44 R151): what a step can do to the operation word of an instance, and so which steps begin and end an
invalidation. -/

namespace Sys2Proof.Machine

/-- The operation word of the instance is as it was, or T3 of its task has cleared its fields. -/
def KeptOrCompleted (t u : Translating) : Prop :=
  u.tlbOp = t.tlbOp ∨ ∃ mask, t.task = some ⟨mask, []⟩ ∧ u = taskComplete t

/-- So it is for every instance. -/
def OpWordsKept (s s' : State) : Prop :=
  ∀ (n : Nat) (t u : Translating), s.insts[n]? = some (.translating t) →
    s'.insts[n]? = some (.translating u) → KeptOrCompleted t u

section OpWords

variable {s s' : State} {n : Nat} {t u : Translating}

theorem OpWordsKept.of_insts (h : s'.insts = s.insts) : OpWordsKept s s' := by
  intro n t u ht hu
  rw [h, ht] at hu
  cases hu
  exact .inl rfl

/-- New state of one instance, whatever else of the machine changes. -/
theorem OpWordsKept.of_written (ht : s.insts[n]? = some (.translating t))
    (written : s'.insts = (s.setInst n u).insts) (kept : KeptOrCompleted t u) :
    OpWordsKept s s' := by
  intro m v w hv hw
  rw [written] at hw
  by_cases own : m = n
  · subst own
    cases ht.symm.trans hv
    cases (setInst_at ht u).symm.trans hw
    exact kept
  · rw [setInst_other own, hv] at hw
    cases hw
    exact .inl rfl

theorem xlateS1_tlbOp {P : Params} {r : Request} {res : XlateResult}
    (h : xlateS1 P t r = .finished u res) : u.tlbOp = t.tlbOp := by
  obtain rfl | ⟨b, rfl, -⟩ := xlateS1_finished h <;> rfl

theorem xlateS2_tlbOp (z : PageSize) (t : Translating) (r : Request) (w : WalkResult) :
    (xlateS2 z t r w).1.tlbOp = t.tlbOp := by
  obtain ⟨c, -, e | ⟨b, e, -⟩⟩ := xlateS2_cases z t r w
  all_goals simp [e]

theorem taskStep_opWordsKept (h : taskStep n s = .next s') : OpWordsKept s s' := by
  obtain ⟨t, mask, ht, -, ⟨-, -, rfl⟩ | ⟨k, sid, rest, -, rfl⟩ | ⟨k, done, rfl⟩⟩ := taskStep_next h
  · exact .of_written ht rfl (.inl rfl)
  · exact .of_written (u := { t with task := some ⟨k, rest⟩ }) ht rfl (.inl rfl)
  · exact .of_written ht rfl (.inr ⟨k, done, rfl⟩)

theorem requestStep_opWordsKept {ticket : Nat} (h : requestStep ticket s = .next s') :
    OpWordsKept s s' := by
  obtain ⟨f, -, -, hs⟩ := requestStep_next h
  obtain ⟨level, base, -, rfl⟩ | ⟨w, -, -, rfl⟩ | ⟨w, r, t, -, -, ht, rfl⟩ := flightStep_next hs
  · exact .of_insts rfl
  · exact .of_insts rfl
  · exact .of_written ht rfl (.inl (xlateS2_tlbOp _ t r w))

/-- Of all operations only `RESET` and a write of the operation word itself do more. -/
theorem exec_opWordsKept {i : Instr} (h : exec i s = .next s') :
    OpWordsKept s s' ∨ ∃ n, i = .reset n ∨ ∃ v, i = .wrTlbOp n v := by
  cases i with
  | reset n => exact .inr ⟨n, .inl rfl⟩
  | wrTlbOp n v => exact .inr ⟨n, .inr ⟨v, rfl⟩⟩
  | invRun n => exact .inl (taskStep_opWordsKept h)
  | rdParams | rdTlbOp | rdErrorStatus | rdErrorAddrLo | rdErrorAddrHi | rdConfig | rdSidRemap
  | rdTcr | rdTtbr | rdUnlisted | resolve | tlbLookup | wrParams | wrErrorAddrLo | wrErrorAddrHi
  | wrUnlisted =>
    obtain ⟨t, -, e⟩ := onInst_next h
    cases e
    exact .inl (.of_insts rfl)
  | rdTargetSetLo | rdTargetSetHi =>
    obtain ⟨t, -, e⟩ := onInst_next h
    split at e <;> cases e
    exact .inl (.of_insts rfl)
  | wrErrorStatus | wrConfig | wrSidRemap | wrTcr | wrTtbr | tlbInsert | tlbInvalidate | tlbClearAll
  | faultLatch =>
    obtain ⟨t, ht, e⟩ := onInst_next h
    cases e
    exact .inl (.of_written ht rfl (.inl rfl))
  | wrTargetSetLo | wrTargetSetHi =>
    obtain ⟨t, ht, e⟩ := onInst_next h
    split at e <;> cases e
    exact .inl (.of_written ht rfl (.inl rfl))
  | xlate =>
    obtain ⟨t, ht, e⟩ := onInst_next h
    split at e
    · dsimp only at e
      split at e <;> cases e
      · rename_i t' res finished
        exact .inl (.of_written ht rfl (.inl (xlateS1_tlbOp finished)))
      · exact .inl (.of_insts rfl)
    · cases e
  | walk =>
    unfold exec execWalk at h
    dsimp only at h
    split at h <;> cases h
    all_goals exact .inl (.of_insts rfl)
  | irqEval =>
    cases h
    exact .inl (.of_insts rfl)

/-- The step receives this operation from outside. -/
def Receives (s : State) (i : Instr) : Prop :=
  ∃ packet rest, nextTurn s = .input ∧ s.inputs = .event packet :: rest ∧
    decode s.params packet = .ok i

/-- What a step can do to an instance's operation word: nothing, T3, a received `RESET`, or a received write of
the word. -/
theorem step_opWord (h : step s = .next s') (ht : s.insts[n]? = some (.translating t))
    (hu : s'.insts[n]? = some (.translating u)) : KeptOrCompleted t u ∨
      (Receives s (.reset n) ∧ u = resetInst s.params) ∨
      ∃ v, Receives s (.wrTlbOp n v) ∧ u = writeTlbOp s.params.nSets t v := by
  have kept (h : OpWordsKept s s') : KeptOrCompleted t u := h n t u ht hu
  obtain ⟨i, packet, rest, turn, decoded, port, he⟩ | ⟨a, v, rest, -, -, rfl⟩ |
    ⟨a, rest, -, -, rfl⟩ | ⟨k, -, hk⟩ | ⟨m, -, hm⟩ | ⟨-, rfl⟩ := step_next h
  · obtain same | ⟨m, op⟩ := exec_opWordsKept he
    · exact .inl (kept same)
    have external : i.isInternal = false ∧ i.target = some m := by
      obtain rfl | ⟨v, rfl⟩ := op <;> exact ⟨rfl, rfl⟩
    have received : Receives s i := by
      obtain ⟨event, -⟩ | ⟨-, internal⟩ := port
      · exact ⟨packet, rest, turn, event, decoded⟩
      · cases internal.symm.trans external.1
    by_cases own : m = n
    · subst own
      obtain rfl | ⟨v, rfl⟩ := op
      all_goals
        obtain ⟨w, hw, rfl⟩ := busWrite_next he
        cases ht.symm.trans hw
        cases hu.symm.trans (setInst_at hw _)
      · exact .inr (.inl ⟨received, rfl⟩)
      · exact .inr (.inr ⟨v, received, rfl⟩)
    · have untouched := (operationsTouchOnlyTheirInstance _ _ _ n he).1
        fun target => own (Option.some.inj (external.2.symm.trans target))
      rw [untouched] at hu
      cases ht.symm.trans hu
      exact .inl (.inl rfl)
  · exact .inl (kept (.of_insts rfl))
  · exact .inl (kept (.of_insts rfl))
  · exact .inl (kept (requestStep_opWordsKept (s := s.turnTaken) hk))
  · exact .inl (kept (taskStep_opWordsKept (s := s.turnTaken) hm))
  · exact .inl (kept (.of_insts rfl))

/-- A step keeps which instances are Translating. -/
theorem step_translatingAt (h : step s = .next s') : s'.translatingAt n ↔ s.translatingAt n := by
  obtain ⟨-, length, kinds⟩ := constructionNeverChanges s s' h
  constructor
  · rintro ⟨u, hu⟩
    have lt : n < s.insts.length := length ▸ (List.getElem?_eq_some_iff.1 hu).1
    obtain same | ⟨t, -, e, -⟩ := kinds n _ _ (List.getElem?_eq_getElem lt) hu
    · exact ⟨u, same ▸ List.getElem?_eq_getElem lt⟩
    · exact ⟨t, e ▸ List.getElem?_eq_getElem lt⟩
  · rintro ⟨t, ht⟩
    have lt : n < s'.insts.length := length ▸ (List.getElem?_eq_some_iff.1 ht).1
    obtain same | ⟨-, u, -, e⟩ := kinds n _ _ ht (List.getElem?_eq_getElem lt)
    · exact ⟨t, same ▸ List.getElem?_eq_getElem lt⟩
    · exact ⟨u, e ▸ List.getElem?_eq_getElem lt⟩

theorem busyAt_iff (ht : s.insts[n]? = some (.translating t)) :
    s.busyAt n ↔ opBusy t.tlbOp = true := by
  simp [State.busyAt, ht]

end OpWords

/-- Settles O21: a write of the operation word of a Busy instance is ignored, which leaves T3 and `RESET`. -/
theorem busyEndsOnlyByCompletionOrReset : Obligations.BusyEndsOnlyByCompletionOrReset := by
  rintro s s' n h ⟨t, ht, busy⟩ ended
  obtain ⟨u, hu⟩ := (step_translatingAt h).2 ⟨t, ht⟩
  rw [busyAt_iff hu] at ended
  obtain (same | ⟨mask, done, rfl⟩) | ⟨received, -⟩ | ⟨v, -, rfl⟩ := step_opWord h ht hu
  · exact absurd (same ▸ busy) ended
  · exact .inl ⟨t, mask, ht, done, hu⟩
  · exact .inr received
  · obtain ⟨same, -⟩ | ⟨idle, -⟩ := writeTlbOp_cases s.params.nSets t v
    · exact absurd (same.symm ▸ busy) ended
    · cases busy.symm.trans idle

/-- Settles O22: T3 and `RESET` leave the instance Idle, which leaves a write that is accepted. -/
theorem busyBeginsOnlyByAcceptedWrite : Obligations.BusyBeginsOnlyByAcceptedWrite := by
  rintro s s' n h idle ⟨u, hu, busy⟩
  obtain ⟨t, ht⟩ := (step_translatingAt h).1 ⟨u, hu⟩
  rw [busyAt_iff ht] at idle
  obtain (same | ⟨mask, -, rfl⟩) | ⟨-, rfl⟩ | ⟨v, ⟨packet, rest, turn, event, decoded⟩, written⟩ :=
    step_opWord h ht hu
  · exact absurd (same ▸ busy) idle
  · cases busy.symm.trans (opBusy_completedOp t.tlbOp)
  · exact absurd busy (by decide : ¬opBusy 0 = true)
  · obtain ⟨same, -⟩ | ⟨-, opcode, nonzero, accepted⟩ := writeTlbOp_cases s.params.nSets t v
    · rw [written, same] at busy
      exact absurd busy idle
    · exact ⟨packet, rest, v, selectedMask v t.targetSets, u, turn, event, decoded, opcode, hu,
        by rw [written, accepted], nonzero⟩

end Sys2Proof.Machine
end

section
/-! The FaultUnit (60_exceptions): what a reader of the fault record sees and a write of it clears, when the interrupt
line is high, and which steps can clear and set a fault bit of an instance. -/

namespace Sys2Proof.Machine

/-! ## The fault record -/

/-- Settles O23: each of the three is a register read. -/
theorem faultRecordReads : Obligations.FaultRecordReads := by
  intro s n t ht
  exact ⟨busRead_at ht _, busRead_at ht _, busRead_at ht _⟩

/-- Settles O24: the write is `ackFault`. -/
theorem wrErrorStatusClearsWrittenBits : Obligations.WrErrorStatusClearsWrittenBits := by
  intro s n t v ht
  exact busWrite_at ht _

/-- The SID field of the read view lies apart from every fault bit (60 R176). -/
theorem sidField_of_faultAll (sid : Sid) {i : Nat} (fault : faultAll.getLsbD i = true) :
    (sid.setWidth 32 <<< 24 : Word).getLsbD i = false := by
  have apart : faultAll &&& sid.setWidth 32 <<< 24 = 0 := by
    revert sid
    decide
  simpa [-BitVec.getLsbD_shiftLeft, fault] using congrArg (BitVec.getLsbD · i) apart

/-- The view of a status, written to the status with fault bits latched on top, clears what was read and keeps the
rest. -/
theorem acknowledge_latched (status : Word) (sid : Sid) {bits : Word}
    (faults : bits &&& ~~~ faultAll = 0) :
    (status ||| bits) &&& ~~~ errorStatusWord status sid = bits &&& ~~~ status := by
  by_cases clear : status = 0
  · simp [errorStatusWord, clear]
  · rw [errorStatusWord, if_neg clear]
    refine BitVec.eq_of_getLsbD_eq fun i lt => ?_
    simp only [BitVec.getLsbD_and, BitVec.getLsbD_or, BitVec.getLsbD_not]
    cases latched : bits.getLsbD i
    · cases status.getLsbD i <;> simp
    · rw [sidField_of_faultAll sid (and_not_eq_zero_iff.1 faults i latched)]
      simp

/-! ## The interrupt line -/

theorem faulting_iff {i : Inst} : i.faulting = true ↔ ∃ t, i = .translating t ∧ t.faultStatus ≠ 0 := by
  cases i <;> simp [Inst.faulting]

theorem irq_iff {s : State} : s.irq = true ↔
    ∃ (n : Nat) (t : Translating), s.insts[n]? = some (.translating t) ∧ t.faultStatus ≠ 0 := by
  simp only [State.irq, List.any_eq_true, List.mem_iff_getElem?, faulting_iff]
  constructor
  · rintro ⟨i, ⟨n, at_n⟩, t, rfl, status⟩
    exact ⟨n, t, at_n, status⟩
  · rintro ⟨n, t, at_n, status⟩
    exact ⟨_, ⟨n, at_n⟩, t, rfl, status⟩

/-- Settles O27: `IRQ.EVAL` answers `State.irq`. -/
theorem irqIsOrOfTranslatingStatus : Obligations.IrqIsOrOfTranslatingStatus := by
  intro s
  exact ⟨s.irq, rfl, irq_iff⟩

/-- Settles O26: the latch is `latchFault`, and its instance then has every bit latched in its status. -/
theorem faultLatchAccumulates : Obligations.FaultLatchAccumulates := by
  intro s n t bits addr q ht
  refine ⟨s.setInst n (latchFault t bits addr q), onInst_at ht _, rfl, fun nonzero => ?_⟩
  refine irq_iff.2 ⟨n, latchFault t bits addr q, setInst_at ht _, fun clear => ?_⟩
  exact nonzero (BitVec.or_eq_zero_iff.1 clear).2

/-- Settles O25: the value read is the view of the status before the latch. -/
theorem acknowledgeIdiomLosesNoKind : Obligations.AcknowledgeIdiomLosesNoKind := by
  intro s n t bits addr q ht faults
  have latched := setInst_at ht (latchFault t bits addr q)
  exact ⟨_, _, _, _, busRead_at ht _, onInst_at ht _, busWrite_at latched _, setInst_at latched _,
    acknowledge_latched t.faultStatus t.faultSid faults⟩

/-! ## Which steps clear and set fault bits -/

/-- Fault bits of an instance are cleared only if `clears`, and set only if `sets`. -/
structure StatusChange (clears sets : Prop) (t u : Translating) : Prop where
  cleared : t.faultStatus &&& ~~~ u.faultStatus ≠ 0 → clears
  set     : u.faultStatus &&& ~~~ t.faultStatus ≠ 0 → sets

/-- The operations that clear fault bits of instance `n`. -/
def ClearsFaults (n : Nat) (i : Instr) : Prop := i = .reset n ∨ ∃ v, i = .wrErrorStatus n v

/-- The operations that set fault bits of instance `n`. -/
def SetsFaults (n : Nat) (i : Instr) : Prop :=
  (∃ q r w iova, i = .xlate n q r w iova) ∨ ∃ bits addr q, i = .faultLatch n bits addr q

/-- The steps that can set a fault bit of instance `n`: a turn of a request in flight, one that receives an `XLATE`,
and one that takes a latch from the port for internal operations (log 9). -/
inductive RaisesFault (n : Nat) (s : State) : Prop where
  | turn {f : Flight} {r : Request} (inFlight : f ∈ s.flights) (turn : nextTurn s = .request f.ticket)
      (purpose : f.purpose = .request r) (inst : r.inst = n)
  | event {q : Sid} {r w : Bool} {iova : Quad} (received : Receives s (.xlate n q r w iova))
  | internal {packet : List Word} {rest : List Input} (port : s.inputs = .internal packet :: rest)

section StatusChanges

variable {clears sets clears' sets' : Prop} {s s' : State} {n : Nat} {t u : Translating}

theorem StatusChange.mono (h : StatusChange clears sets t u) (clear : clears → clears')
    (set : sets → sets') : StatusChange clears' sets' t u :=
  ⟨fun bit => clear (h.cleared bit), fun bit => set (h.set bit)⟩

/-- The status is as it was. -/
theorem StatusChange.same (h : u.faultStatus = t.faultStatus) : StatusChange clears sets t u := by
  have unmoved : t.faultStatus &&& ~~~ t.faultStatus = 0 := and_not_eq_zero_iff.2 fun _ bit => bit
  constructor
  all_goals
    rw [h]
    exact fun bit => absurd unmoved bit

/-- The instance was left alone. -/
theorem StatusChange.untouched (same : s'.insts[n]? = s.insts[n]?)
    (ht : s.insts[n]? = some (.translating t)) (hu : s'.insts[n]? = some (.translating u)) :
    StatusChange clears sets t u := by
  rw [same] at hu
  cases ht.symm.trans hu
  exact .same rfl

theorem StatusChange.ackFault (clear : clears) (t : Translating) (v : Word) :
    StatusChange clears sets t (ackFault t v) :=
  ⟨fun _ => clear, fun bit => absurd (and_and_not_eq_zero (and_not_eq_zero_iff.2 fun _ b => b) _) bit⟩

theorem StatusChange.resetInst (clear : clears) (t : Translating) (P : Params) :
    StatusChange clears sets t (resetInst P) :=
  ⟨fun _ => clear, fun bit => absurd BitVec.zero_and bit⟩

/-- A translation clears nothing. -/
theorem StatusChange.translated (h : Translated t u) (set : sets) : StatusChange clears sets t u :=
  ⟨fun bit => absurd h.bits bit, fun _ => set⟩

/-- The state of an instance after a write of it. -/
theorem busWrite_written {f : Translating → Translating} (h : busWrite n s f = .next s')
    (ht : s.insts[n]? = some (.translating t)) (hu : s'.insts[n]? = some (.translating u)) :
    u = f t := by
  obtain ⟨v, hv, rfl⟩ := busWrite_next h
  cases ht.symm.trans hv
  cases hu.symm.trans (setInst_at ht _)
  rfl

theorem writeTlbOp_faultStatus (nSets : Nat) (t : Translating) (val : Word) :
    (writeTlbOp nSets t val).faultStatus = t.faultStatus := by
  obtain ⟨e, -⟩ | ⟨-, -, -, e⟩ := writeTlbOp_cases nSets t val <;> rw [e]

/-- A step of a deferred task keeps the fault record of every instance. -/
theorem taskStep_statusChange {m : Nat} (h : taskStep m s = .next s')
    (ht : s.insts[n]? = some (.translating t)) (hu : s'.insts[n]? = some (.translating u)) :
    StatusChange clears sets t u := by
  by_cases own : n = m
  · subst own
    obtain ⟨v, mask, hv, -, moved⟩ := taskStep_next h
    cases ht.symm.trans hv
    obtain ⟨-, -, rfl⟩ | ⟨k, sid, rest, -, rfl⟩ | ⟨k, -, rfl⟩ := moved
    all_goals
      cases hu.symm.trans (setInst_at ht _)
      exact .same rfl
  · have other := (operationsTouchOnlyTheirInstance (.invRun m) s s' n h).1
      fun target => own (Option.some.inj target).symm
    exact .untouched other ht hu

/-- A turn of a request changes the status of the instance the request was made to, in S2. -/
theorem flightStep_statusChange {f : Flight} (h : flightStep f s = .next s')
    (ht : s.insts[n]? = some (.translating t)) (hu : s'.insts[n]? = some (.translating u)) :
    StatusChange clears (∃ r, f.purpose = .request r ∧ r.inst = n) t u := by
  obtain ⟨level, base, -, rfl⟩ | ⟨w, -, -, rfl⟩ | ⟨w, r, v, -, purpose, hv, rfl⟩ := flightStep_next h
  · exact .untouched rfl ht hu
  · exact .untouched rfl ht hu
  · by_cases own : n = r.inst
    · subst own
      cases ht.symm.trans hv
      cases hu.symm.trans (setInst_at ht _)
      exact .translated (.xlateS2 _ t r w) ⟨r, purpose, rfl⟩
    · exact .untouched (setInst_other own _) ht hu

/-- Every operation keeps the fault record of its instance, but for the four that clear or set fault bits. -/
theorem exec_statusChange {i : Instr} (h : exec i s = .next s')
    (ht : s.insts[n]? = some (.translating t)) (hu : s'.insts[n]? = some (.translating u)) :
    StatusChange (ClearsFaults n i) (SetsFaults n i) t u := by
  by_cases own : i.target = some n
  case neg => exact .untouched ((operationsTouchOnlyTheirInstance _ _ _ n h).1 own) ht hu
  cases i with
  | walk | irqEval => cases own
  | rdParams | rdTlbOp | rdErrorStatus | rdErrorAddrLo | rdErrorAddrHi | rdConfig | rdSidRemap
  | rdTcr | rdTtbr | rdUnlisted | resolve | tlbLookup | wrParams | wrErrorAddrLo | wrErrorAddrHi
  | wrUnlisted =>
    obtain ⟨v, -, e⟩ := onInst_next h
    cases e
    exact .untouched rfl ht hu
  | rdTargetSetLo | rdTargetSetHi =>
    obtain ⟨v, -, e⟩ := onInst_next h
    split at e <;> cases e
    exact .untouched rfl ht hu
  | wrTlbOp m val =>
    cases own
    obtain rfl := busWrite_written h ht hu
    exact .same (writeTlbOp_faultStatus _ t val)
  | wrConfig | wrSidRemap | wrTcr | wrTtbr | tlbInsert | tlbInvalidate | tlbClearAll =>
    cases own
    obtain rfl := busWrite_written h ht hu
    exact .same rfl
  | wrTargetSetLo | wrTargetSetHi =>
    cases own
    obtain ⟨v, hv, e⟩ := onInst_next h
    split at e <;> cases e
    cases ht.symm.trans hv
    cases hu.symm.trans (setInst_at ht _)
    exact .same rfl
  | invRun => exact taskStep_statusChange h ht hu
  | reset m =>
    cases own
    obtain rfl := busWrite_written h ht hu
    exact .resetInst (.inl rfl) t _
  | wrErrorStatus m v =>
    cases own
    obtain rfl := busWrite_written h ht hu
    exact .ackFault (.inr ⟨v, rfl⟩) t v
  | faultLatch m bits addr q =>
    cases own
    obtain rfl := busWrite_written h ht hu
    exact .translated (.latched t t.tlb bits addr q) (.inr ⟨bits, addr, q, rfl⟩)
  | xlate m q r w iova =>
    cases own
    exact .translated ((execXlate_onlyTranslates h).translated ht hu) (.inl ⟨q, r, w, iova, rfl⟩)

/-- What a step can do to the fault status of an instance. -/
theorem step_statusChange (h : step s = .next s') (ht : s.insts[n]? = some (.translating t))
    (hu : s'.insts[n]? = some (.translating u)) :
    StatusChange (∃ i, ClearsFaults n i ∧ Receives s i) (RaisesFault n s) t u := by
  obtain ⟨i, packet, rest, turn, decoded, port, he⟩ | ⟨a, v, rest, -, -, rfl⟩ |
    ⟨a, rest, -, -, rfl⟩ | ⟨k, turn, hk⟩ | ⟨m, -, hm⟩ | ⟨-, rfl⟩ := step_next h
  · have change := exec_statusChange he ht hu
    obtain ⟨event, external⟩ | ⟨port, internal⟩ := port
    · have received : Receives s i := ⟨packet, rest, turn, event, decoded⟩
      refine change.mono (fun clears => ⟨i, clears, received⟩) fun sets => ?_
      obtain ⟨q, r, w, iova, rfl⟩ | ⟨bits, addr, q, rfl⟩ := sets
      · exact .event received
      · cases external
    · refine change.mono (fun clears => ?_) fun _ => .internal port
      obtain rfl | ⟨v, rfl⟩ := clears <;> cases internal
  · exact .untouched rfl ht hu
  · exact .untouched rfl ht hu
  · obtain ⟨f, inFlight, rfl, hf⟩ := requestStep_next hk
    refine (flightStep_statusChange hf ht hu).mono id ?_
    rintro ⟨r, purpose, inst⟩
    exact .turn inFlight turn purpose inst
  · exact taskStep_statusChange (s := s.turnTaken) hm ht hu
  · exact .untouched rfl ht hu

end StatusChanges

/-- Settles O28: the operation received is one of the two that clear fault bits. -/
theorem faultBitsClearedOnlyByAckOrReset : Obligations.FaultBitsClearedOnlyByAckOrReset := by
  intro s s' n t t' h ht ht' cleared
  obtain ⟨i, op, packet, rest, turn, event, decoded⟩ := (step_statusChange h ht ht').cleared cleared
  refine ⟨packet, rest, turn, event, ?_⟩
  obtain rfl | ⟨v, rfl⟩ := op
  · exact .inl decoded
  · exact .inr ⟨v, decoded⟩

/-- Settles O29: what is left of the steps that set a fault bit when nothing is offered on the port for internal
operations. -/
theorem faultsRaisedOnlyByTranslation : Obligations.FaultsRaisedOnlyByTranslation := by
  intro s s' n t t' h outside ht ht' raised
  cases (step_statusChange h ht ht').set raised with
  | turn inFlight turn purpose inst => exact .inl ⟨_, _, inFlight, turn, purpose, inst⟩
  | event received =>
    obtain ⟨packet, rest, turn, event, decoded⟩ := received
    exact .inr ⟨packet, rest, _, _, _, _, turn, event, decoded⟩
  | internal port =>
    exact absurd (outside (.internal _) (port ▸ List.mem_cons_self)) Bool.false_ne_true

end Sys2Proof.Machine
end

section
/-! `RESET` (70_reset_and_hazards R196 to R201): what the registers of a reset instance hold, and that no stream is
translated before software writes a TCR word. -/

namespace Sys2Proof.Machine

/-! ## The registers of a reset instance -/

section ResetInstance

variable (P : Params)

/-- The remap table is the identity after `RESET`. -/
theorem getElem?_resetInst_remap {a : Nat} (h : a < 16) :
    (resetInst P).remap[a]? = some (BitVec.ofNat 8 a) := by
  have table : ∀ a < 16, (Translating.reset 0).remap[a]? = some (BitVec.ofNat 8 a) := by decide
  exact table a h

theorem getElem?_resetInst_tcr {p : Nat} (h : p < 16) : (resetInst P).tcr[p]? = some 0 :=
  Vector.getElem?_replicate_of_lt h

theorem getElem?_resetInst_ttbr {p : Nat} (h : p < 16) :
    (resetInst P).ttbr[p]? = some (Vector.replicate 4 0) :=
  Vector.getElem?_replicate_of_lt h

end ResetInstance

/-- Settles O51: the operation writes `resetInst` over the instance, whatever that held. -/
theorem resetRestoresEveryRegister : Obligations.ResetRestoresEveryRegister := by
  intro s n t ht
  exact ⟨resetInst s.params, busWrite_at ht _, fun _ => getElem?_resetInst_remap _,
    fun _ => getElem?_resetInst_tcr _,
    fun _ hp _ hi => ⟨_, getElem?_resetInst_ttbr _ hp, Vector.getElem?_replicate_of_lt hi⟩,
    rfl, rfl, rfl, rfl, rfl, rfl, rfl, rfl, rfl⟩

/-- Settles O52: the policy word of every physical SID is 0 after `RESET`, so that its `EN` is clear: the second cause
of bypass (43 R139). -/
theorem everyStreamBypassedAfterReset : Obligations.EveryStreamBypassedAfterReset := by
  intro s s' n q r w iova reset port
  obtain ⟨t, ht, rfl⟩ := busWrite_next reset
  have disabled : (0 : Word).getLsbD 7 = false := BitVec.getLsbD_zero
  exact bypassedXlateGrantsNothing _ n (resetInst s.params) q _ r w iova _ 0 (setInst_at ht _) port
    (getElem?_resetInst_remap _ q.isLt) rfl (getElem?_resetInst_tcr _ (BitVec.isLt _))
    (.inr (.inl disabled))

end Sys2Proof.Machine
end

section
/-! The descriptors written out by the spec's programs (95_test_vectors P1 to P5): instances of the round trip. -/

namespace Sys2Proof

/-- A packet known as the packet of an operation the default layout can spell decodes to it. -/
theorem decode_of_encode_eq {packet : List Word} {i : Instr} (wf : i.wellFormed Params.default = true)
    (written : encode Params.default i = packet) : decode Params.default packet = .ok i :=
  written ▸ encodeThenDecode Params.default i Machine.default_wf wf

/-- Settles O4: each packet is the one the encoder writes for its operation, so the round trip reads it back. -/
theorem writtenDescriptorsDecode : Obligations.WrittenDescriptorsDecode := by
  refine ⟨?_, ?_, ?_, ?_, ?_, ?_, ?_, ?_, ?_, ?_, ?_, ?_⟩
  all_goals exact decode_of_encode_eq (by decide) (by decide)

end Sys2Proof
end
